-- ==== Sys2Proof/Word.lean ====
section
/-! DEFINITION. The word types of the core: 64-bit register values and addresses (00_scope.md R9, R11), bytes,
32-bit instruction words (30_encoding.md R70) and 5-bit register numbers (30_encoding.md R71). -/

namespace Sys2Proof

/-- A register value or an address: XLEN = 64 bits (00_scope.md R9). -/
abbrev Word := BitVec 64

/-- One byte of memory (20_memory.md R40). -/
abbrev Byte := BitVec 8

/-- An instruction word: ILEN = 32 bits (00_scope.md R9, 30_encoding.md R70). -/
abbrev InstWord := BitVec 32

/-- A register number x0..x31, as the encodings hold it (30_encoding.md R71). -/
abbrev Reg := BitVec 5

end Sys2Proof
end

