-- ==== Sys2Proof/Syntax.lean ====
section
/-! DEFINITION. The 64 instructions of spec/opcode_table.json, one constructor per row, with the operand fields of
their formats (30_encoding.md R72-R78); and what the decoder can answer (30_encoding.md R81, R82). An instruction whose
immediate has a fixed low bit carries the whole immediate, that bit included (WellFormed.lean); a shift-immediate
carries the whole 12-bit I field, of which bits 5..0 are the shift amount (R82, R88). -/

namespace Sys2Proof

/-- The instructions (00_scope.md R2). -/
inductive Instr where
  -- upper immediates (41_integer.md R114, R115): imm = inst[31:12]
  | lui   (rd : Reg) (imm : BitVec 20)
  | auipc (rd : Reg) (imm : BitVec 20)
  -- OP-IMM (R116-R124)
  | addi  (rd rs1 : Reg) (imm : BitVec 12)
  | slti  (rd rs1 : Reg) (imm : BitVec 12)
  | sltiu (rd rs1 : Reg) (imm : BitVec 12)
  | xori  (rd rs1 : Reg) (imm : BitVec 12)
  | ori   (rd rs1 : Reg) (imm : BitVec 12)
  | andi  (rd rs1 : Reg) (imm : BitVec 12)
  | slli  (rd rs1 : Reg) (imm : BitVec 12)
  | srli  (rd rs1 : Reg) (imm : BitVec 12)
  | srai  (rd rs1 : Reg) (imm : BitVec 12)
  -- OP (R125-R134)
  | add   (rd rs1 rs2 : Reg)
  | sub   (rd rs1 rs2 : Reg)
  | sll   (rd rs1 rs2 : Reg)
  | slt   (rd rs1 rs2 : Reg)
  | sltu  (rd rs1 rs2 : Reg)
  | xor   (rd rs1 rs2 : Reg)
  | srl   (rd rs1 rs2 : Reg)
  | sra   (rd rs1 rs2 : Reg)
  | or    (rd rs1 rs2 : Reg)
  | and   (rd rs1 rs2 : Reg)
  -- OP-IMM-32 (R135-R138)
  | addiw (rd rs1 : Reg) (imm : BitVec 12)
  | slliw (rd rs1 : Reg) (imm : BitVec 12)
  | srliw (rd rs1 : Reg) (imm : BitVec 12)
  | sraiw (rd rs1 : Reg) (imm : BitVec 12)
  -- OP-32 (R139-R143)
  | addw  (rd rs1 rs2 : Reg)
  | subw  (rd rs1 rs2 : Reg)
  | sllw  (rd rs1 rs2 : Reg)
  | srlw  (rd rs1 rs2 : Reg)
  | sraw  (rd rs1 rs2 : Reg)
  -- multiply and divide (42_muldiv.md R154-R166)
  | mul    (rd rs1 rs2 : Reg)
  | mulh   (rd rs1 rs2 : Reg)
  | mulhsu (rd rs1 rs2 : Reg)
  | mulhu  (rd rs1 rs2 : Reg)
  | div    (rd rs1 rs2 : Reg)
  | divu   (rd rs1 rs2 : Reg)
  | rem    (rd rs1 rs2 : Reg)
  | remu   (rd rs1 rs2 : Reg)
  | mulw   (rd rs1 rs2 : Reg)
  | divw   (rd rs1 rs2 : Reg)
  | divuw  (rd rs1 rs2 : Reg)
  | remw   (rd rs1 rs2 : Reg)
  | remuw  (rd rs1 rs2 : Reg)
  -- loads (43_loads_stores.md R173-R179)
  | lb  (rd rs1 : Reg) (imm : BitVec 12)
  | lh  (rd rs1 : Reg) (imm : BitVec 12)
  | lw  (rd rs1 : Reg) (imm : BitVec 12)
  | ld  (rd rs1 : Reg) (imm : BitVec 12)
  | lbu (rd rs1 : Reg) (imm : BitVec 12)
  | lhu (rd rs1 : Reg) (imm : BitVec 12)
  | lwu (rd rs1 : Reg) (imm : BitVec 12)
  -- stores (R180-R183)
  | sb (rs1 rs2 : Reg) (imm : BitVec 12)
  | sh (rs1 rs2 : Reg) (imm : BitVec 12)
  | sw (rs1 rs2 : Reg) (imm : BitVec 12)
  | sd (rs1 rs2 : Reg) (imm : BitVec 12)
  -- jumps (44_control.md R189, R190)
  | jal  (rd : Reg) (off : BitVec 21)
  | jalr (rd rs1 : Reg) (imm : BitVec 12)
  -- branches (R191-R196)
  | beq  (rs1 rs2 : Reg) (off : BitVec 13)
  | bne  (rs1 rs2 : Reg) (off : BitVec 13)
  | blt  (rs1 rs2 : Reg) (off : BitVec 13)
  | bge  (rs1 rs2 : Reg) (off : BitVec 13)
  | bltu (rs1 rs2 : Reg) (off : BitVec 13)
  | bgeu (rs1 rs2 : Reg) (off : BitVec 13)
  -- system (45_system.md R200, R213)
  | ecall
  | ebreak
deriving DecidableEq, Repr

/-- What a decoded record names (30_encoding.md R81, R82): an instruction of the table, the fallback UNIMPLEMENTED, or
nothing (the subtype of the record NONE of 70_reset_and_hazards.md R262). -/
inductive Decoded where
  | nothing
  | unimplemented
  | instr (i : Instr)
deriving DecidableEq, Repr

/-- The format tags (30_encoding.md R72-R77). -/
inductive Format where
  | r
  | i
  | s
  | sb
  | u
  | uj
deriving DecidableEq, Repr

/-- The decoded record of 30_encoding.md R82. -/
structure DecodedRecord where
  fmt : Format
  raw : InstWord
  sub : Decoded
  rd  : Reg
  rs1 : Reg
  rs2 : Reg
  imm : Word
deriving DecidableEq, Repr

/-- The record NONE (70_reset_and_hazards.md R262), which has no source and no destination, also the `d` of a bubble (R257).
That its other fields are zero, and its format R, is the model's (DESIGN CHOICE, safe, log 15). -/
def DecodedRecord.nothing : DecodedRecord := { fmt := .r, raw := 0, sub := .nothing, rd := 0, rs1 := 0, rs2 := 0, imm := 0 }

end Sys2Proof
end

