-- ==== Sys2Proof/WellFormed.lean ====
section
/-! DEFINITION. Which terms of `Instr` an instruction word can hold: a branch or JAL offset has bit 0 zero
(30_encoding.md R75, R77), and bit 30 of the word, bit 10 of the I field, selects the right shift-immediate
(30_encoding.md R73, R80). -/

namespace Sys2Proof

/-- The term is one some word decodes to. -/
def Instr.WellFormed : Instr → Bool
  | .beq _ _ off | .bne _ _ off | .blt _ _ off | .bge _ _ off | .bltu _ _ off | .bgeu _ _ off => !off.getLsbD 0
  | .jal _ off => !off.getLsbD 0
  | .srli _ _ imm | .srliw _ _ imm => !imm.getLsbD 10
  | .srai _ _ imm | .sraiw _ _ imm => imm.getLsbD 10
  | _ => true

end Sys2Proof
end

