-- ==== Sys2Proof/Decode.lean ====
section
/-! DEFINITION. The decoder: fields (30_encoding.md R71), immediate fields (R72-R78), the opcode map (R79, R80), the
fallback UNIMPLEMENTED (R81), the decoded record (R82), sources and destination (R84) and class predicates (R85);
and after it the encoder. The bit positions are the spec's, which marks them as general knowledge (93 G1). -/

namespace Sys2Proof

/-! ### Fields of a word (R71) -/

/-- opcode, inst[6:0]. -/
def opcodeOf (w : InstWord) : BitVec 7 := w.extractLsb' 0 7
/-- rd, inst[11:7]. -/
def rdOf (w : InstWord) : Reg := w.extractLsb' 7 5
/-- funct3, inst[14:12]. -/
def funct3Of (w : InstWord) : BitVec 3 := w.extractLsb' 12 3
/-- rs1, inst[19:15]. -/
def rs1Of (w : InstWord) : Reg := w.extractLsb' 15 5
/-- rs2, inst[24:20]. -/
def rs2Of (w : InstWord) : Reg := w.extractLsb' 20 5
/-- funct7, inst[31:25]. -/
def funct7Of (w : InstWord) : BitVec 7 := w.extractLsb' 25 7

/-- The I immediate field, inst[31:20] (R73). -/
def fieldI (w : InstWord) : BitVec 12 := w.extractLsb' 20 12
/-- The S immediate field (R74). -/
def fieldS (w : InstWord) : BitVec 12 := w.extractLsb' 25 7 ++ w.extractLsb' 7 5
/-- The SB immediate field, bit 0 zero (R75). -/
def fieldB (w : InstWord) : BitVec 13 :=
  w.extractLsb' 31 1 ++ w.extractLsb' 7 1 ++ w.extractLsb' 25 6 ++ w.extractLsb' 8 4 ++ 0#1
/-- The U immediate field, inst[31:12] (R76). -/
def fieldU (w : InstWord) : BitVec 20 := w.extractLsb' 12 20
/-- The UJ immediate field, bit 0 zero (R77). -/
def fieldJ (w : InstWord) : BitVec 21 :=
  w.extractLsb' 31 1 ++ w.extractLsb' 12 8 ++ w.extractLsb' 20 1 ++ w.extractLsb' 21 10 ++ 0#1

/-! ### Immediates (R78) -/

/-- immI and immS = sext_12 of the field. -/
def imm12 (f : BitVec 12) : Word := f.signExtend 64
/-- immB = sext_13 of the field. -/
def immB (f : BitVec 13) : Word := f.signExtend 64
/-- immU = sext_32 of the field over twelve zero bits. -/
def immU (f : BitVec 20) : Word := (f ++ 0#12 : BitVec 32).signExtend 64
/-- immJ = sext_21 of the field. -/
def immJ (f : BitVec 21) : Word := f.signExtend 64
/-- The shift amount of a shift-immediate: bits 5..0 of the I field, inst[25:20] (R78, R82). -/
def shamtOf (f : BitVec 12) : BitVec 6 := f.extractLsb' 0 6

/-! ### Subtype resolution (R80): one function per major opcode -/

def decodeLoad (w : InstWord) : Decoded :=
  let rd := rdOf w
  let rs1 := rs1Of w
  let imm := fieldI w
  match funct3Of w with
  | 0b000#3 => .instr (.lb rd rs1 imm)
  | 0b001#3 => .instr (.lh rd rs1 imm)
  | 0b010#3 => .instr (.lw rd rs1 imm)
  | 0b011#3 => .instr (.ld rd rs1 imm)
  | 0b100#3 => .instr (.lbu rd rs1 imm)
  | 0b101#3 => .instr (.lhu rd rs1 imm)
  | 0b110#3 => .instr (.lwu rd rs1 imm)
  | _ => .unimplemented

def decodeStore (w : InstWord) : Decoded :=
  let rs1 := rs1Of w
  let rs2 := rs2Of w
  let imm := fieldS w
  match funct3Of w with
  | 0b000#3 => .instr (.sb rs1 rs2 imm)
  | 0b001#3 => .instr (.sh rs1 rs2 imm)
  | 0b010#3 => .instr (.sw rs1 rs2 imm)
  | 0b011#3 => .instr (.sd rs1 rs2 imm)
  | _ => .unimplemented

/-- OP-IMM: only funct3, and bit 30 for the right shifts, are checked (R80, R88). -/
def decodeOpImm (w : InstWord) : Decoded :=
  let rd := rdOf w
  let rs1 := rs1Of w
  let imm := fieldI w
  match funct3Of w with
  | 0b000#3 => .instr (.addi rd rs1 imm)
  | 0b001#3 => .instr (.slli rd rs1 imm)
  | 0b010#3 => .instr (.slti rd rs1 imm)
  | 0b011#3 => .instr (.sltiu rd rs1 imm)
  | 0b100#3 => .instr (.xori rd rs1 imm)
  | 0b101#3 => if w.getLsbD 30 then .instr (.srai rd rs1 imm) else .instr (.srli rd rs1 imm)
  | 0b110#3 => .instr (.ori rd rs1 imm)
  | 0b111#3 => .instr (.andi rd rs1 imm)
  | _ => .unimplemented

def decodeOpImm32 (w : InstWord) : Decoded :=
  let rd := rdOf w
  let rs1 := rs1Of w
  let imm := fieldI w
  match funct3Of w with
  | 0b000#3 => .instr (.addiw rd rs1 imm)
  | 0b001#3 => .instr (.slliw rd rs1 imm)
  | 0b101#3 => if w.getLsbD 30 then .instr (.sraiw rd rs1 imm) else .instr (.srliw rd rs1 imm)
  | _ => .unimplemented

def decodeOp (w : InstWord) : Decoded :=
  let rd := rdOf w
  let rs1 := rs1Of w
  let rs2 := rs2Of w
  match funct7Of w, funct3Of w with
  | 0b0000000#7, 0b000#3 => .instr (.add rd rs1 rs2)
  | 0b0000000#7, 0b001#3 => .instr (.sll rd rs1 rs2)
  | 0b0000000#7, 0b010#3 => .instr (.slt rd rs1 rs2)
  | 0b0000000#7, 0b011#3 => .instr (.sltu rd rs1 rs2)
  | 0b0000000#7, 0b100#3 => .instr (.xor rd rs1 rs2)
  | 0b0000000#7, 0b101#3 => .instr (.srl rd rs1 rs2)
  | 0b0000000#7, 0b110#3 => .instr (.or rd rs1 rs2)
  | 0b0000000#7, 0b111#3 => .instr (.and rd rs1 rs2)
  | 0b0100000#7, 0b000#3 => .instr (.sub rd rs1 rs2)
  | 0b0100000#7, 0b101#3 => .instr (.sra rd rs1 rs2)
  | 0b0000001#7, 0b000#3 => .instr (.mul rd rs1 rs2)
  | 0b0000001#7, 0b001#3 => .instr (.mulh rd rs1 rs2)
  | 0b0000001#7, 0b010#3 => .instr (.mulhsu rd rs1 rs2)
  | 0b0000001#7, 0b011#3 => .instr (.mulhu rd rs1 rs2)
  | 0b0000001#7, 0b100#3 => .instr (.div rd rs1 rs2)
  | 0b0000001#7, 0b101#3 => .instr (.divu rd rs1 rs2)
  | 0b0000001#7, 0b110#3 => .instr (.rem rd rs1 rs2)
  | 0b0000001#7, 0b111#3 => .instr (.remu rd rs1 rs2)
  | _, _ => .unimplemented

def decodeOp32 (w : InstWord) : Decoded :=
  let rd := rdOf w
  let rs1 := rs1Of w
  let rs2 := rs2Of w
  match funct7Of w, funct3Of w with
  | 0b0000000#7, 0b000#3 => .instr (.addw rd rs1 rs2)
  | 0b0000000#7, 0b001#3 => .instr (.sllw rd rs1 rs2)
  | 0b0000000#7, 0b101#3 => .instr (.srlw rd rs1 rs2)
  | 0b0100000#7, 0b000#3 => .instr (.subw rd rs1 rs2)
  | 0b0100000#7, 0b101#3 => .instr (.sraw rd rs1 rs2)
  | 0b0000001#7, 0b000#3 => .instr (.mulw rd rs1 rs2)
  | 0b0000001#7, 0b100#3 => .instr (.divw rd rs1 rs2)
  | 0b0000001#7, 0b101#3 => .instr (.divuw rd rs1 rs2)
  | 0b0000001#7, 0b110#3 => .instr (.remw rd rs1 rs2)
  | 0b0000001#7, 0b111#3 => .instr (.remuw rd rs1 rs2)
  | _, _ => .unimplemented

def decodeBranch (w : InstWord) : Decoded :=
  let rs1 := rs1Of w
  let rs2 := rs2Of w
  let off := fieldB w
  match funct3Of w with
  | 0b000#3 => .instr (.beq rs1 rs2 off)
  | 0b001#3 => .instr (.bne rs1 rs2 off)
  | 0b100#3 => .instr (.blt rs1 rs2 off)
  | 0b101#3 => .instr (.bge rs1 rs2 off)
  | 0b110#3 => .instr (.bltu rs1 rs2 off)
  | 0b111#3 => .instr (.bgeu rs1 rs2 off)
  | _ => .unimplemented

def decodeJalr (w : InstWord) : Decoded :=
  match funct3Of w with
  | 0b000#3 => .instr (.jalr (rdOf w) (rs1Of w) (fieldI w))
  | _ => .unimplemented

/-- SYSTEM: the whole word is checked (D11). -/
def decodeSystem (w : InstWord) : Decoded :=
  if w = 0x00000073#32 then .instr .ecall
  else if w = 0x00100073#32 then .instr .ebreak
  else .unimplemented

/-- `decode` (R79-R83): pure and total; a word that matches no row is UNIMPLEMENTED. -/
def decode (w : InstWord) : Decoded :=
  match opcodeOf w with
  | 0b0000011#7 => decodeLoad w
  | 0b0010011#7 => decodeOpImm w
  | 0b0010111#7 => .instr (.auipc (rdOf w) (fieldU w))
  | 0b0011011#7 => decodeOpImm32 w
  | 0b0100011#7 => decodeStore w
  | 0b0110011#7 => decodeOp w
  | 0b0110111#7 => .instr (.lui (rdOf w) (fieldU w))
  | 0b0111011#7 => decodeOp32 w
  | 0b1100011#7 => decodeBranch w
  | 0b1100111#7 => decodeJalr w
  | 0b1101111#7 => .instr (.jal (rdOf w) (fieldJ w))
  | 0b1110011#7 => decodeSystem w
  | _ => .unimplemented

/-- The instruction a decoded record names, where it names one of the table. -/
def Decoded.instr? : Decoded → Option Instr
  | .instr i => some i
  | .unimplemented => none
  | .nothing => none

/-! ### The decoded record (R82) -/

/-- The format tag of each instruction (R79). -/
def Instr.format : Instr → Format
  | .lui .. | .auipc .. => .u
  | .jal .. => .uj
  | .beq .. | .bne .. | .blt .. | .bge .. | .bltu .. | .bgeu .. => .sb
  | .sb .. | .sh .. | .sw .. | .sd .. => .s
  | .addi .. | .slti .. | .sltiu .. | .xori .. | .ori .. | .andi .. | .slli .. | .srli .. | .srai .. => .i
  | .addiw .. | .slliw .. | .srliw .. | .sraiw .. => .i
  | .lb .. | .lh .. | .lw .. | .ld .. | .lbu .. | .lhu .. | .lwu .. => .i
  | .jalr .. | .ecall | .ebreak => .i
  | .add .. | .sub .. | .sll .. | .slt .. | .sltu .. | .xor .. | .srl .. | .sra .. | .or .. | .and .. => .r
  | .addw .. | .subw .. | .sllw .. | .srlw .. | .sraw .. => .r
  | .mul .. | .mulh .. | .mulhsu .. | .mulhu .. | .div .. | .divu .. | .rem .. | .remu .. => .r
  | .mulw .. | .divw .. | .divuw .. | .remw .. | .remuw .. => .r

/-- The format tag of a decoded word; UNIMPLEMENTED has tag R (D10). -/
def Decoded.format : Decoded → Format
  | .instr i => i.format
  | .unimplemented => .r
  | .nothing => .r

/-- The immediate of a word under a format (R78, R82); 0 for R. -/
def immOf (fmt : Format) (w : InstWord) : Word :=
  match fmt with
  | .r => 0
  | .i => imm12 (fieldI w)
  | .s => imm12 (fieldS w)
  | .sb => immB (fieldB w)
  | .u => immU (fieldU w)
  | .uj => immJ (fieldJ w)

/-- The record {fmt, raw, sub, rd, rs1, rs2, imm} of R82; the register fields are taken from their positions whatever
the format. -/
def decodeRecord (w : InstWord) : DecodedRecord where
  fmt := (decode w).format
  raw := w
  sub := decode w
  rd := rdOf w
  rs1 := rs1Of w
  rs2 := rs2Of w
  imm := immOf (decode w).format w

/-! ### Sources, destination (R84) and classes (R85) -/

/-- The register in the rs1 position that the instruction reads, if its class reads one (R84). -/
def Instr.src1 : Instr → Option Reg
  | .lui .. | .auipc .. | .jal .. | .ecall | .ebreak => none
  | .addi _ rs1 _ | .slti _ rs1 _ | .sltiu _ rs1 _ | .xori _ rs1 _ | .ori _ rs1 _ | .andi _ rs1 _ => some rs1
  | .slli _ rs1 _ | .srli _ rs1 _ | .srai _ rs1 _ => some rs1
  | .addiw _ rs1 _ | .slliw _ rs1 _ | .srliw _ rs1 _ | .sraiw _ rs1 _ => some rs1
  | .lb _ rs1 _ | .lh _ rs1 _ | .lw _ rs1 _ | .ld _ rs1 _ | .lbu _ rs1 _ | .lhu _ rs1 _ | .lwu _ rs1 _ => some rs1
  | .jalr _ rs1 _ => some rs1
  | .sb rs1 _ _ | .sh rs1 _ _ | .sw rs1 _ _ | .sd rs1 _ _ => some rs1
  | .beq rs1 _ _ | .bne rs1 _ _ | .blt rs1 _ _ | .bge rs1 _ _ | .bltu rs1 _ _ | .bgeu rs1 _ _ => some rs1
  | .add _ rs1 _ | .sub _ rs1 _ | .sll _ rs1 _ | .slt _ rs1 _ | .sltu _ rs1 _ | .xor _ rs1 _ => some rs1
  | .srl _ rs1 _ | .sra _ rs1 _ | .or _ rs1 _ | .and _ rs1 _ => some rs1
  | .addw _ rs1 _ | .subw _ rs1 _ | .sllw _ rs1 _ | .srlw _ rs1 _ | .sraw _ rs1 _ => some rs1
  | .mul _ rs1 _ | .mulh _ rs1 _ | .mulhsu _ rs1 _ | .mulhu _ rs1 _ => some rs1
  | .div _ rs1 _ | .divu _ rs1 _ | .rem _ rs1 _ | .remu _ rs1 _ => some rs1
  | .mulw _ rs1 _ | .divw _ rs1 _ | .divuw _ rs1 _ | .remw _ rs1 _ | .remuw _ rs1 _ => some rs1

/-- The register in the rs2 position that the instruction reads, if its class reads one (R84). -/
def Instr.src2 : Instr → Option Reg
  | .lui .. | .auipc .. | .jal .. | .ecall | .ebreak => none
  | .addi .. | .slti .. | .sltiu .. | .xori .. | .ori .. | .andi .. | .slli .. | .srli .. | .srai .. => none
  | .addiw .. | .slliw .. | .srliw .. | .sraiw .. => none
  | .lb .. | .lh .. | .lw .. | .ld .. | .lbu .. | .lhu .. | .lwu .. | .jalr .. => none
  | .sb _ rs2 _ | .sh _ rs2 _ | .sw _ rs2 _ | .sd _ rs2 _ => some rs2
  | .beq _ rs2 _ | .bne _ rs2 _ | .blt _ rs2 _ | .bge _ rs2 _ | .bltu _ rs2 _ | .bgeu _ rs2 _ => some rs2
  | .add _ _ rs2 | .sub _ _ rs2 | .sll _ _ rs2 | .slt _ _ rs2 | .sltu _ _ rs2 | .xor _ _ rs2 => some rs2
  | .srl _ _ rs2 | .sra _ _ rs2 | .or _ _ rs2 | .and _ _ rs2 => some rs2
  | .addw _ _ rs2 | .subw _ _ rs2 | .sllw _ _ rs2 | .srlw _ _ rs2 | .sraw _ _ rs2 => some rs2
  | .mul _ _ rs2 | .mulh _ _ rs2 | .mulhsu _ _ rs2 | .mulhu _ _ rs2 => some rs2
  | .div _ _ rs2 | .divu _ _ rs2 | .rem _ _ rs2 | .remu _ _ rs2 => some rs2
  | .mulw _ _ rs2 | .divw _ _ rs2 | .divuw _ _ rs2 | .remw _ _ rs2 | .remuw _ _ rs2 => some rs2

/-- The destination field of the instruction's class (R84), x0 included; ECALL writes its result register at commit
and has none here. -/
def Instr.destField : Instr → Option Reg
  | .lui rd _ | .auipc rd _ | .jal rd _ => some rd
  | .addi rd _ _ | .slti rd _ _ | .sltiu rd _ _ | .xori rd _ _ | .ori rd _ _ | .andi rd _ _ => some rd
  | .slli rd _ _ | .srli rd _ _ | .srai rd _ _ => some rd
  | .addiw rd _ _ | .slliw rd _ _ | .srliw rd _ _ | .sraiw rd _ _ => some rd
  | .lb rd _ _ | .lh rd _ _ | .lw rd _ _ | .ld rd _ _ | .lbu rd _ _ | .lhu rd _ _ | .lwu rd _ _ => some rd
  | .jalr rd _ _ => some rd
  | .add rd _ _ | .sub rd _ _ | .sll rd _ _ | .slt rd _ _ | .sltu rd _ _ | .xor rd _ _ => some rd
  | .srl rd _ _ | .sra rd _ _ | .or rd _ _ | .and rd _ _ => some rd
  | .addw rd _ _ | .subw rd _ _ | .sllw rd _ _ | .srlw rd _ _ | .sraw rd _ _ => some rd
  | .mul rd _ _ | .mulh rd _ _ | .mulhsu rd _ _ | .mulhu rd _ _ => some rd
  | .div rd _ _ | .divu rd _ _ | .rem rd _ _ | .remu rd _ _ => some rd
  | .mulw rd _ _ | .divw rd _ _ | .divuw rd _ _ | .remw rd _ _ | .remuw rd _ _ => some rd
  | .sb .. | .sh .. | .sw .. | .sd .. => none
  | .beq .. | .bne .. | .blt .. | .bge .. | .bltu .. | .bgeu .. => none
  | .ecall | .ebreak => none

/-- A register of R84's sets, where x0 counts as none. -/
def notX0 : Option Reg → Option Reg
  | some r => if r = 0 then none else some r
  | none => none

/-- `dest` of R84: none for x0, stores, branches, ECALL, EBREAK, UNIMPLEMENTED and NONE. -/
def Decoded.dest : Decoded → Option Reg
  | .instr i => notX0 i.destField
  | .unimplemented => none
  | .nothing => none

/-- The rs1 operand of a decoded word (R84), x0 included. -/
def Decoded.src1 : Decoded → Option Reg
  | .instr i => i.src1
  | .unimplemented => none
  | .nothing => none

/-- The rs2 operand of a decoded word (R84), x0 included. -/
def Decoded.src2 : Decoded → Option Reg
  | .instr i => i.src2
  | .unimplemented => none
  | .nothing => none

/-- `r ∈ srcs(d)` of R84; x0 is never matched. -/
def Decoded.readsReg (d : Decoded) (r : Reg) : Bool := r ≠ 0 && (d.src1 = some r || d.src2 = some r)

/-- isLoad (R85). -/
def Decoded.isLoad : Decoded → Bool
  | .instr (.lb ..) | .instr (.lh ..) | .instr (.lw ..) | .instr (.ld ..) => true
  | .instr (.lbu ..) | .instr (.lhu ..) | .instr (.lwu ..) => true
  | _ => false

/-- isStore (R85). -/
def Decoded.isStore : Decoded → Bool
  | .instr (.sb ..) | .instr (.sh ..) | .instr (.sw ..) | .instr (.sd ..) => true
  | _ => false

/-- isBranch (R85). -/
def Decoded.isBranch : Decoded → Bool
  | .instr (.beq ..) | .instr (.bne ..) | .instr (.blt ..) => true
  | .instr (.bge ..) | .instr (.bltu ..) | .instr (.bgeu ..) => true
  | _ => false

/-- isJAL (R85). -/
def Decoded.isJal : Decoded → Bool
  | .instr (.jal ..) => true
  | _ => false

/-- isJALR (R85). -/
def Decoded.isJalr : Decoded → Bool
  | .instr (.jalr ..) => true
  | _ => false

/-- isECALL (R85). -/
def Decoded.isEcall : Decoded → Bool
  | .instr .ecall => true
  | _ => false

/-- isMulOp (R85). -/
def Decoded.isMulOp : Decoded → Bool
  | .instr (.mul ..) | .instr (.mulh ..) | .instr (.mulhsu ..) | .instr (.mulhu ..) | .instr (.mulw ..) => true
  | _ => false

/-- isDivOp (R85). -/
def Decoded.isDivOp : Decoded → Bool
  | .instr (.div ..) | .instr (.divu ..) | .instr (.rem ..) | .instr (.remu ..) => true
  | .instr (.divw ..) | .instr (.divuw ..) | .instr (.remw ..) | .instr (.remuw ..) => true
  | _ => false

/-! ### Bytes of a word, and the decoder over bytes -/

/-- The little-endian word of four bytes (20_memory.md R44). -/
def wordOfBytes (b0 b1 b2 b3 : BitVec 8) : InstWord := b3 ++ b2 ++ b1 ++ b0

/-- The decoder over the bytes at the fetch address: the decoded word and the bytes after it; `none` where fewer than
four bytes are given, since every instruction is one 32-bit word (R70). -/
def decodeBytes : List (BitVec 8) → Option (Decoded × List (BitVec 8))
  | b0 :: b1 :: b2 :: b3 :: rest => some (decode (wordOfBytes b0 b1 b2 b3), rest)
  | _ => none

/-- Byte `k` of a number, least significant first. -/
def byteOfNat (w k : Nat) : BitVec 8 := BitVec.ofNat 8 (w / 2 ^ (8 * k))

/-- The instruction the decoder reads from an opcode-table word of `nbits` bits, bits above them zero, laid out little
end first. -/
def decodeTableWord (nbits w : Nat) : Option Instr :=
  let v := w % 2 ^ nbits
  match decodeBytes [byteOfNat v 0, byteOfNat v 1, byteOfNat v 2, byteOfNat v 3] with
  | some (d, _) => d.instr?
  | none => none

/-! ### The encoder (R72-R80) -/

/-- Format R (R72). -/
def encodeR (f7 : BitVec 7) (rs2 rs1 : Reg) (f3 : BitVec 3) (rd : Reg) (op : BitVec 7) : InstWord :=
  f7 ++ rs2 ++ rs1 ++ f3 ++ rd ++ op
/-- Format I (R73). -/
def encodeI (imm : BitVec 12) (rs1 : Reg) (f3 : BitVec 3) (rd : Reg) (op : BitVec 7) : InstWord :=
  imm ++ rs1 ++ f3 ++ rd ++ op
/-- Format S (R74). -/
def encodeS (imm : BitVec 12) (rs2 rs1 : Reg) (f3 : BitVec 3) (op : BitVec 7) : InstWord :=
  imm.extractLsb' 5 7 ++ rs2 ++ rs1 ++ f3 ++ imm.extractLsb' 0 5 ++ op
/-- Format SB (R75). -/
def encodeB (off : BitVec 13) (rs2 rs1 : Reg) (f3 : BitVec 3) (op : BitVec 7) : InstWord :=
  off.extractLsb' 12 1 ++ off.extractLsb' 5 6 ++ rs2 ++ rs1 ++ f3 ++ off.extractLsb' 1 4 ++ off.extractLsb' 11 1 ++ op
/-- Format U (R76). -/
def encodeU (imm : BitVec 20) (rd : Reg) (op : BitVec 7) : InstWord := imm ++ rd ++ op
/-- Format UJ (R77). -/
def encodeJ (off : BitVec 21) (rd : Reg) (op : BitVec 7) : InstWord :=
  off.extractLsb' 20 1 ++ off.extractLsb' 1 10 ++ off.extractLsb' 11 1 ++ off.extractLsb' 12 8 ++ rd ++ op

/-- The word of an instruction, from the rows of R80; meant for well-formed instructions. -/
def encode : Instr → InstWord
  | .lui rd imm => encodeU imm rd 0b0110111
  | .auipc rd imm => encodeU imm rd 0b0010111
  | .addi rd rs1 imm => encodeI imm rs1 0b000 rd 0b0010011
  | .slti rd rs1 imm => encodeI imm rs1 0b010 rd 0b0010011
  | .sltiu rd rs1 imm => encodeI imm rs1 0b011 rd 0b0010011
  | .xori rd rs1 imm => encodeI imm rs1 0b100 rd 0b0010011
  | .ori rd rs1 imm => encodeI imm rs1 0b110 rd 0b0010011
  | .andi rd rs1 imm => encodeI imm rs1 0b111 rd 0b0010011
  | .slli rd rs1 imm => encodeI imm rs1 0b001 rd 0b0010011
  | .srli rd rs1 imm => encodeI imm rs1 0b101 rd 0b0010011
  | .srai rd rs1 imm => encodeI imm rs1 0b101 rd 0b0010011
  | .add rd rs1 rs2 => encodeR 0b0000000 rs2 rs1 0b000 rd 0b0110011
  | .sub rd rs1 rs2 => encodeR 0b0100000 rs2 rs1 0b000 rd 0b0110011
  | .sll rd rs1 rs2 => encodeR 0b0000000 rs2 rs1 0b001 rd 0b0110011
  | .slt rd rs1 rs2 => encodeR 0b0000000 rs2 rs1 0b010 rd 0b0110011
  | .sltu rd rs1 rs2 => encodeR 0b0000000 rs2 rs1 0b011 rd 0b0110011
  | .xor rd rs1 rs2 => encodeR 0b0000000 rs2 rs1 0b100 rd 0b0110011
  | .srl rd rs1 rs2 => encodeR 0b0000000 rs2 rs1 0b101 rd 0b0110011
  | .sra rd rs1 rs2 => encodeR 0b0100000 rs2 rs1 0b101 rd 0b0110011
  | .or rd rs1 rs2 => encodeR 0b0000000 rs2 rs1 0b110 rd 0b0110011
  | .and rd rs1 rs2 => encodeR 0b0000000 rs2 rs1 0b111 rd 0b0110011
  | .addiw rd rs1 imm => encodeI imm rs1 0b000 rd 0b0011011
  | .slliw rd rs1 imm => encodeI imm rs1 0b001 rd 0b0011011
  | .srliw rd rs1 imm => encodeI imm rs1 0b101 rd 0b0011011
  | .sraiw rd rs1 imm => encodeI imm rs1 0b101 rd 0b0011011
  | .addw rd rs1 rs2 => encodeR 0b0000000 rs2 rs1 0b000 rd 0b0111011
  | .subw rd rs1 rs2 => encodeR 0b0100000 rs2 rs1 0b000 rd 0b0111011
  | .sllw rd rs1 rs2 => encodeR 0b0000000 rs2 rs1 0b001 rd 0b0111011
  | .srlw rd rs1 rs2 => encodeR 0b0000000 rs2 rs1 0b101 rd 0b0111011
  | .sraw rd rs1 rs2 => encodeR 0b0100000 rs2 rs1 0b101 rd 0b0111011
  | .mul rd rs1 rs2 => encodeR 0b0000001 rs2 rs1 0b000 rd 0b0110011
  | .mulh rd rs1 rs2 => encodeR 0b0000001 rs2 rs1 0b001 rd 0b0110011
  | .mulhsu rd rs1 rs2 => encodeR 0b0000001 rs2 rs1 0b010 rd 0b0110011
  | .mulhu rd rs1 rs2 => encodeR 0b0000001 rs2 rs1 0b011 rd 0b0110011
  | .div rd rs1 rs2 => encodeR 0b0000001 rs2 rs1 0b100 rd 0b0110011
  | .divu rd rs1 rs2 => encodeR 0b0000001 rs2 rs1 0b101 rd 0b0110011
  | .rem rd rs1 rs2 => encodeR 0b0000001 rs2 rs1 0b110 rd 0b0110011
  | .remu rd rs1 rs2 => encodeR 0b0000001 rs2 rs1 0b111 rd 0b0110011
  | .mulw rd rs1 rs2 => encodeR 0b0000001 rs2 rs1 0b000 rd 0b0111011
  | .divw rd rs1 rs2 => encodeR 0b0000001 rs2 rs1 0b100 rd 0b0111011
  | .divuw rd rs1 rs2 => encodeR 0b0000001 rs2 rs1 0b101 rd 0b0111011
  | .remw rd rs1 rs2 => encodeR 0b0000001 rs2 rs1 0b110 rd 0b0111011
  | .remuw rd rs1 rs2 => encodeR 0b0000001 rs2 rs1 0b111 rd 0b0111011
  | .lb rd rs1 imm => encodeI imm rs1 0b000 rd 0b0000011
  | .lh rd rs1 imm => encodeI imm rs1 0b001 rd 0b0000011
  | .lw rd rs1 imm => encodeI imm rs1 0b010 rd 0b0000011
  | .ld rd rs1 imm => encodeI imm rs1 0b011 rd 0b0000011
  | .lbu rd rs1 imm => encodeI imm rs1 0b100 rd 0b0000011
  | .lhu rd rs1 imm => encodeI imm rs1 0b101 rd 0b0000011
  | .lwu rd rs1 imm => encodeI imm rs1 0b110 rd 0b0000011
  | .sb rs1 rs2 imm => encodeS imm rs2 rs1 0b000 0b0100011
  | .sh rs1 rs2 imm => encodeS imm rs2 rs1 0b001 0b0100011
  | .sw rs1 rs2 imm => encodeS imm rs2 rs1 0b010 0b0100011
  | .sd rs1 rs2 imm => encodeS imm rs2 rs1 0b011 0b0100011
  | .jal rd off => encodeJ off rd 0b1101111
  | .jalr rd rs1 imm => encodeI imm rs1 0b000 rd 0b1100111
  | .beq rs1 rs2 off => encodeB off rs2 rs1 0b000 0b1100011
  | .bne rs1 rs2 off => encodeB off rs2 rs1 0b001 0b1100011
  | .blt rs1 rs2 off => encodeB off rs2 rs1 0b100 0b1100011
  | .bge rs1 rs2 off => encodeB off rs2 rs1 0b101 0b1100011
  | .bltu rs1 rs2 off => encodeB off rs2 rs1 0b110 0b1100011
  | .bgeu rs1 rs2 off => encodeB off rs2 rs1 0b111 0b1100011
  | .ecall => 0x00000073#32
  | .ebreak => 0x00100073#32

/-! ### The opcode table (R80) -/

/-- A row of spec/opcode_table.json: a word is this instruction iff `word &&& mask = pattern` (R80). -/
structure TableRow where
  mnemonic : String
  mask     : InstWord
  pattern  : InstWord
deriving DecidableEq, Repr

/-- The row of each instruction, copied from spec/opcode_table.json: the decoder is not written with it. -/
def Instr.row : Instr → TableRow
  | .lui .. => { mnemonic := "LUI", mask := 0x0000007f#32, pattern := 0x00000037#32 }
  | .auipc .. => { mnemonic := "AUIPC", mask := 0x0000007f#32, pattern := 0x00000017#32 }
  | .addi .. => { mnemonic := "ADDI", mask := 0x0000707f#32, pattern := 0x00000013#32 }
  | .slti .. => { mnemonic := "SLTI", mask := 0x0000707f#32, pattern := 0x00002013#32 }
  | .sltiu .. => { mnemonic := "SLTIU", mask := 0x0000707f#32, pattern := 0x00003013#32 }
  | .xori .. => { mnemonic := "XORI", mask := 0x0000707f#32, pattern := 0x00004013#32 }
  | .ori .. => { mnemonic := "ORI", mask := 0x0000707f#32, pattern := 0x00006013#32 }
  | .andi .. => { mnemonic := "ANDI", mask := 0x0000707f#32, pattern := 0x00007013#32 }
  | .slli .. => { mnemonic := "SLLI", mask := 0x0000707f#32, pattern := 0x00001013#32 }
  | .srli .. => { mnemonic := "SRLI", mask := 0x4000707f#32, pattern := 0x00005013#32 }
  | .srai .. => { mnemonic := "SRAI", mask := 0x4000707f#32, pattern := 0x40005013#32 }
  | .add .. => { mnemonic := "ADD", mask := 0xfe00707f#32, pattern := 0x00000033#32 }
  | .sub .. => { mnemonic := "SUB", mask := 0xfe00707f#32, pattern := 0x40000033#32 }
  | .sll .. => { mnemonic := "SLL", mask := 0xfe00707f#32, pattern := 0x00001033#32 }
  | .slt .. => { mnemonic := "SLT", mask := 0xfe00707f#32, pattern := 0x00002033#32 }
  | .sltu .. => { mnemonic := "SLTU", mask := 0xfe00707f#32, pattern := 0x00003033#32 }
  | .xor .. => { mnemonic := "XOR", mask := 0xfe00707f#32, pattern := 0x00004033#32 }
  | .srl .. => { mnemonic := "SRL", mask := 0xfe00707f#32, pattern := 0x00005033#32 }
  | .sra .. => { mnemonic := "SRA", mask := 0xfe00707f#32, pattern := 0x40005033#32 }
  | .or .. => { mnemonic := "OR", mask := 0xfe00707f#32, pattern := 0x00006033#32 }
  | .and .. => { mnemonic := "AND", mask := 0xfe00707f#32, pattern := 0x00007033#32 }
  | .addiw .. => { mnemonic := "ADDIW", mask := 0x0000707f#32, pattern := 0x0000001b#32 }
  | .slliw .. => { mnemonic := "SLLIW", mask := 0x0000707f#32, pattern := 0x0000101b#32 }
  | .srliw .. => { mnemonic := "SRLIW", mask := 0x4000707f#32, pattern := 0x0000501b#32 }
  | .sraiw .. => { mnemonic := "SRAIW", mask := 0x4000707f#32, pattern := 0x4000501b#32 }
  | .addw .. => { mnemonic := "ADDW", mask := 0xfe00707f#32, pattern := 0x0000003b#32 }
  | .subw .. => { mnemonic := "SUBW", mask := 0xfe00707f#32, pattern := 0x4000003b#32 }
  | .sllw .. => { mnemonic := "SLLW", mask := 0xfe00707f#32, pattern := 0x0000103b#32 }
  | .srlw .. => { mnemonic := "SRLW", mask := 0xfe00707f#32, pattern := 0x0000503b#32 }
  | .sraw .. => { mnemonic := "SRAW", mask := 0xfe00707f#32, pattern := 0x4000503b#32 }
  | .mul .. => { mnemonic := "MUL", mask := 0xfe00707f#32, pattern := 0x02000033#32 }
  | .mulh .. => { mnemonic := "MULH", mask := 0xfe00707f#32, pattern := 0x02001033#32 }
  | .mulhsu .. => { mnemonic := "MULHSU", mask := 0xfe00707f#32, pattern := 0x02002033#32 }
  | .mulhu .. => { mnemonic := "MULHU", mask := 0xfe00707f#32, pattern := 0x02003033#32 }
  | .div .. => { mnemonic := "DIV", mask := 0xfe00707f#32, pattern := 0x02004033#32 }
  | .divu .. => { mnemonic := "DIVU", mask := 0xfe00707f#32, pattern := 0x02005033#32 }
  | .rem .. => { mnemonic := "REM", mask := 0xfe00707f#32, pattern := 0x02006033#32 }
  | .remu .. => { mnemonic := "REMU", mask := 0xfe00707f#32, pattern := 0x02007033#32 }
  | .mulw .. => { mnemonic := "MULW", mask := 0xfe00707f#32, pattern := 0x0200003b#32 }
  | .divw .. => { mnemonic := "DIVW", mask := 0xfe00707f#32, pattern := 0x0200403b#32 }
  | .divuw .. => { mnemonic := "DIVUW", mask := 0xfe00707f#32, pattern := 0x0200503b#32 }
  | .remw .. => { mnemonic := "REMW", mask := 0xfe00707f#32, pattern := 0x0200603b#32 }
  | .remuw .. => { mnemonic := "REMUW", mask := 0xfe00707f#32, pattern := 0x0200703b#32 }
  | .lb .. => { mnemonic := "LB", mask := 0x0000707f#32, pattern := 0x00000003#32 }
  | .lh .. => { mnemonic := "LH", mask := 0x0000707f#32, pattern := 0x00001003#32 }
  | .lw .. => { mnemonic := "LW", mask := 0x0000707f#32, pattern := 0x00002003#32 }
  | .ld .. => { mnemonic := "LD", mask := 0x0000707f#32, pattern := 0x00003003#32 }
  | .lbu .. => { mnemonic := "LBU", mask := 0x0000707f#32, pattern := 0x00004003#32 }
  | .lhu .. => { mnemonic := "LHU", mask := 0x0000707f#32, pattern := 0x00005003#32 }
  | .lwu .. => { mnemonic := "LWU", mask := 0x0000707f#32, pattern := 0x00006003#32 }
  | .sb .. => { mnemonic := "SB", mask := 0x0000707f#32, pattern := 0x00000023#32 }
  | .sh .. => { mnemonic := "SH", mask := 0x0000707f#32, pattern := 0x00001023#32 }
  | .sw .. => { mnemonic := "SW", mask := 0x0000707f#32, pattern := 0x00002023#32 }
  | .sd .. => { mnemonic := "SD", mask := 0x0000707f#32, pattern := 0x00003023#32 }
  | .jal .. => { mnemonic := "JAL", mask := 0x0000007f#32, pattern := 0x0000006f#32 }
  | .jalr .. => { mnemonic := "JALR", mask := 0x0000707f#32, pattern := 0x00000067#32 }
  | .beq .. => { mnemonic := "BEQ", mask := 0x0000707f#32, pattern := 0x00000063#32 }
  | .bne .. => { mnemonic := "BNE", mask := 0x0000707f#32, pattern := 0x00001063#32 }
  | .blt .. => { mnemonic := "BLT", mask := 0x0000707f#32, pattern := 0x00004063#32 }
  | .bge .. => { mnemonic := "BGE", mask := 0x0000707f#32, pattern := 0x00005063#32 }
  | .bltu .. => { mnemonic := "BLTU", mask := 0x0000707f#32, pattern := 0x00006063#32 }
  | .bgeu .. => { mnemonic := "BGEU", mask := 0x0000707f#32, pattern := 0x00007063#32 }
  | .ecall => { mnemonic := "ECALL", mask := 0xffffffff#32, pattern := 0x00000073#32 }
  | .ebreak => { mnemonic := "EBREAK", mask := 0xffffffff#32, pattern := 0x00100073#32 }

/-- Rows 1 to 16 of the table. -/
def tableRows1 : List TableRow := [
  { mnemonic := "LUI", mask := 0x0000007f#32, pattern := 0x00000037#32 },
  { mnemonic := "AUIPC", mask := 0x0000007f#32, pattern := 0x00000017#32 },
  { mnemonic := "ADDI", mask := 0x0000707f#32, pattern := 0x00000013#32 },
  { mnemonic := "SLTI", mask := 0x0000707f#32, pattern := 0x00002013#32 },
  { mnemonic := "SLTIU", mask := 0x0000707f#32, pattern := 0x00003013#32 },
  { mnemonic := "XORI", mask := 0x0000707f#32, pattern := 0x00004013#32 },
  { mnemonic := "ORI", mask := 0x0000707f#32, pattern := 0x00006013#32 },
  { mnemonic := "ANDI", mask := 0x0000707f#32, pattern := 0x00007013#32 },
  { mnemonic := "SLLI", mask := 0x0000707f#32, pattern := 0x00001013#32 },
  { mnemonic := "SRLI", mask := 0x4000707f#32, pattern := 0x00005013#32 },
  { mnemonic := "SRAI", mask := 0x4000707f#32, pattern := 0x40005013#32 },
  { mnemonic := "ADD", mask := 0xfe00707f#32, pattern := 0x00000033#32 },
  { mnemonic := "SUB", mask := 0xfe00707f#32, pattern := 0x40000033#32 },
  { mnemonic := "SLL", mask := 0xfe00707f#32, pattern := 0x00001033#32 },
  { mnemonic := "SLT", mask := 0xfe00707f#32, pattern := 0x00002033#32 },
  { mnemonic := "SLTU", mask := 0xfe00707f#32, pattern := 0x00003033#32 }]

/-- Rows 17 to 32 of the table. -/
def tableRows2 : List TableRow := [
  { mnemonic := "XOR", mask := 0xfe00707f#32, pattern := 0x00004033#32 },
  { mnemonic := "SRL", mask := 0xfe00707f#32, pattern := 0x00005033#32 },
  { mnemonic := "SRA", mask := 0xfe00707f#32, pattern := 0x40005033#32 },
  { mnemonic := "OR", mask := 0xfe00707f#32, pattern := 0x00006033#32 },
  { mnemonic := "AND", mask := 0xfe00707f#32, pattern := 0x00007033#32 },
  { mnemonic := "ADDIW", mask := 0x0000707f#32, pattern := 0x0000001b#32 },
  { mnemonic := "SLLIW", mask := 0x0000707f#32, pattern := 0x0000101b#32 },
  { mnemonic := "SRLIW", mask := 0x4000707f#32, pattern := 0x0000501b#32 },
  { mnemonic := "SRAIW", mask := 0x4000707f#32, pattern := 0x4000501b#32 },
  { mnemonic := "ADDW", mask := 0xfe00707f#32, pattern := 0x0000003b#32 },
  { mnemonic := "SUBW", mask := 0xfe00707f#32, pattern := 0x4000003b#32 },
  { mnemonic := "SLLW", mask := 0xfe00707f#32, pattern := 0x0000103b#32 },
  { mnemonic := "SRLW", mask := 0xfe00707f#32, pattern := 0x0000503b#32 },
  { mnemonic := "SRAW", mask := 0xfe00707f#32, pattern := 0x4000503b#32 },
  { mnemonic := "MUL", mask := 0xfe00707f#32, pattern := 0x02000033#32 },
  { mnemonic := "MULH", mask := 0xfe00707f#32, pattern := 0x02001033#32 }]

/-- Rows 33 to 48 of the table. -/
def tableRows3 : List TableRow := [
  { mnemonic := "MULHSU", mask := 0xfe00707f#32, pattern := 0x02002033#32 },
  { mnemonic := "MULHU", mask := 0xfe00707f#32, pattern := 0x02003033#32 },
  { mnemonic := "DIV", mask := 0xfe00707f#32, pattern := 0x02004033#32 },
  { mnemonic := "DIVU", mask := 0xfe00707f#32, pattern := 0x02005033#32 },
  { mnemonic := "REM", mask := 0xfe00707f#32, pattern := 0x02006033#32 },
  { mnemonic := "REMU", mask := 0xfe00707f#32, pattern := 0x02007033#32 },
  { mnemonic := "MULW", mask := 0xfe00707f#32, pattern := 0x0200003b#32 },
  { mnemonic := "DIVW", mask := 0xfe00707f#32, pattern := 0x0200403b#32 },
  { mnemonic := "DIVUW", mask := 0xfe00707f#32, pattern := 0x0200503b#32 },
  { mnemonic := "REMW", mask := 0xfe00707f#32, pattern := 0x0200603b#32 },
  { mnemonic := "REMUW", mask := 0xfe00707f#32, pattern := 0x0200703b#32 },
  { mnemonic := "LB", mask := 0x0000707f#32, pattern := 0x00000003#32 },
  { mnemonic := "LH", mask := 0x0000707f#32, pattern := 0x00001003#32 },
  { mnemonic := "LW", mask := 0x0000707f#32, pattern := 0x00002003#32 },
  { mnemonic := "LD", mask := 0x0000707f#32, pattern := 0x00003003#32 },
  { mnemonic := "LBU", mask := 0x0000707f#32, pattern := 0x00004003#32 }]

/-- Rows 49 to 64 of the table. -/
def tableRows4 : List TableRow := [
  { mnemonic := "LHU", mask := 0x0000707f#32, pattern := 0x00005003#32 },
  { mnemonic := "LWU", mask := 0x0000707f#32, pattern := 0x00006003#32 },
  { mnemonic := "SB", mask := 0x0000707f#32, pattern := 0x00000023#32 },
  { mnemonic := "SH", mask := 0x0000707f#32, pattern := 0x00001023#32 },
  { mnemonic := "SW", mask := 0x0000707f#32, pattern := 0x00002023#32 },
  { mnemonic := "SD", mask := 0x0000707f#32, pattern := 0x00003023#32 },
  { mnemonic := "JAL", mask := 0x0000007f#32, pattern := 0x0000006f#32 },
  { mnemonic := "JALR", mask := 0x0000707f#32, pattern := 0x00000067#32 },
  { mnemonic := "BEQ", mask := 0x0000707f#32, pattern := 0x00000063#32 },
  { mnemonic := "BNE", mask := 0x0000707f#32, pattern := 0x00001063#32 },
  { mnemonic := "BLT", mask := 0x0000707f#32, pattern := 0x00004063#32 },
  { mnemonic := "BGE", mask := 0x0000707f#32, pattern := 0x00005063#32 },
  { mnemonic := "BLTU", mask := 0x0000707f#32, pattern := 0x00006063#32 },
  { mnemonic := "BGEU", mask := 0x0000707f#32, pattern := 0x00007063#32 },
  { mnemonic := "ECALL", mask := 0xffffffff#32, pattern := 0x00000073#32 },
  { mnemonic := "EBREAK", mask := 0xffffffff#32, pattern := 0x00100073#32 }]

/-- All 64 rows, in the order of spec/opcode_table.json. -/
def tableRows : List TableRow := tableRows1 ++ tableRows2 ++ tableRows3 ++ tableRows4

/-- The word matches the row (R80). -/
def TableRow.holds (r : TableRow) (w : InstWord) : Bool := w &&& r.mask == r.pattern

end Sys2Proof
end

