-- ==== Sys2Proof/Config.lean ====
section
/-! DEFINITION. The parameters of the hardware (00_scope.md R9) as plain data that a state carries read-only
(10_state.md R25, R30), the values of 95_test_vectors.md section 0, and the model's two free values: the contents of
newly created pages (20_memory.md R49) and the external storage-latency model (92_eei_decisions.md D47). -/

namespace Sys2Proof

/-- The engine that runs: a parameter fixed for a run (00_scope.md R8, D53). -/
inductive Mode where
  | atomic
  | pipelined
deriving DecidableEq, Repr

/-- Branch-prediction strategy BP (00_scope.md R9, 70_reset_and_hazards.md R266). -/
inductive BranchPrediction where
  /-- ALWAYS_TAKEN -/
  | alwaysTaken
  /-- FTBNT: forward taken, backward not taken -/
  | ftbnt
  /-- BTFNT: backward taken, forward not taken -/
  | btfnt
deriving DecidableEq, Repr

/-- WSHIFT_WIDE: the result of a word shift by 32..63 (41_integer.md R112). -/
inductive WordShiftWide where
  | full
  | mod32
deriving DecidableEq, Repr

/-- DIV_OVF: the result of signed division overflow (42_muldiv.md R151). -/
inductive DivOverflow where
  | riscv
  | fault
deriving DecidableEq, Repr

/-- NEW_PAGE_FILL: the contents of a newly created stack or heap page (20_memory.md R49). -/
inductive NewPageFill where
  | unspecified
  | zero
deriving DecidableEq, Repr

/-- The kind of a memory access (20_memory.md R45). -/
inductive AccessKind where
  | read
  | write
  | fetch
deriving DecidableEq, Repr

/-- MEM_LAT: no extra cycles (the default), or the external storage-latency model (92_eei_decisions.md D47). -/
inductive MemLatency where
  | zero
  | external
deriving DecidableEq, Repr

/-- SYSNO: the number of each of the nine services (45_system.md R200, D17). -/
structure ServiceNumbers where
  printInt    : Word := 1
  printString : Word := 4
  readInt     : Word := 5
  sbrk        : Word := 9
  exit        : Word := 10
  printChar   : Word := 11
  readChar    : Word := 12
  heapBaseQ   : Word := 13
  heapMaxQ    : Word := 14
deriving DecidableEq, Repr

/-- The parameters of 00_scope.md R9. The defaults are the spec's defaults where it gives one and the values of
95_test_vectors.md section 0 where R9 says OPEN (log 1, DESIGN CHOICE; unsafe only for a claim about `Config.default`).
PAGE is held by its exponent, since it is a power of two (D2). -/
structure Config where
  mode        : Mode := .atomic
  /-- PAGE = 2 ^ pageBits -/
  pageBits    : Nat := 12
  maxAddr     : Word := 0x80000000#64
  heapBase    : Word := 0x10000000#64
  heapMax     : Word := 0x20000000#64
  stackTop    : Word := 0x80000000#64
  entry       : Word := 0x1000#64
  bp          : BranchPrediction := .alwaysTaken
  mulLat      : Nat := 0
  divLat      : Nat := 0
  sysLat      : Nat := 0
  memLat      : MemLatency := .zero
  wshiftWide  : WordShiftWide := .full
  divOvf      : DivOverflow := .riscv
  sysno       : ServiceNumbers := {}
  sysNumReg   : Reg := 17#5
  sysArgReg   : Reg := 10#5
  sysResReg   : Reg := 10#5
  newPageFill : NewPageFill := .unspecified
deriving DecidableEq, Repr

/-- The parameters of 95_test_vectors.md section 0, atomic mode. -/
def Config.default : Config := {}

/-- FREE VALUE (log 4): the byte that an unwritten byte of the `draw`-th page with unspecified contents holds at
offset `off` (20_memory.md R49, 93 U2, U3). No body: nothing can be proved of it. -/
opaque Config.drawnByte (draw off : Nat) : Byte

/-- FREE VALUE (log 9): the extra cycles of the external storage-latency model for an access of `n` bytes at an
address (92_eei_decisions.md D47). No body: nothing can be proved of it. -/
opaque Config.externalLatency (k : AccessKind) (a : Word) (n : Nat) : Nat

end Sys2Proof
end

