-- ==== Sys2Proof/Machine/Flags.lean ====
section
/-! DEFINITION. The hardware has no flags (10_state.md R27): this file holds the comparisons, which decide a branch
inside that branch's own execution or give the 0 or 1 of a set-less-than (41_integer.md R113, 44_control.md
R191-R196), and keeps no state. -/

namespace Sys2Proof.Machine

/-- a <s b: the two's-complement readings (00_scope.md R12). -/
def ltSigned (a b : Word) : Bool := decide (a.toInt < b.toInt)

/-- a <u b: the unsigned readings (00_scope.md R12). -/
def ltUnsigned (a b : Word) : Bool := decide (a.toNat < b.toNat)

/-- The 64-bit value 1 or 0 of a comparison (41_integer.md R113). -/
def boolWord (p : Bool) : Word := if p then 1 else 0

/-- BEQ (44_control.md R191). -/
def takenBeq (a b : Word) : Bool := a == b
/-- BNE (44_control.md R192). -/
def takenBne (a b : Word) : Bool := a != b
/-- BLT (44_control.md R193). -/
def takenBlt (a b : Word) : Bool := ltSigned a b
/-- BGE (44_control.md R194). -/
def takenBge (a b : Word) : Bool := decide (b.toInt ≤ a.toInt)
/-- BLTU (44_control.md R195). -/
def takenBltu (a b : Word) : Bool := ltUnsigned a b
/-- BGEU (44_control.md R196). -/
def takenBgeu (a b : Word) : Bool := !ltUnsigned a b

end Sys2Proof.Machine
end

