-- ==== Sys2Proof/Machine/Operands.lean ====
section
/-! DEFINITION. The operand forms: extensions (00_scope.md R11), the one addressing mode (43_loads_stores.md R170), the
widths and extensions of the loads (R171), the widths of the stores (R172), and the targets and link value of the
control transfers (44_control.md R185, R187). -/

namespace Sys2Proof.Machine

/-- sext_32 of a 32-bit value (00_scope.md R11). -/
def sext32 (v : BitVec 32) : Word := v.signExtend 64

/-- v[31:0] (00_scope.md R11). -/
def low32 (v : Word) : BitVec 32 := v.extractLsb' 0 32

/-- ea = x[rs1] + the signed 12-bit displacement, modulo 2^64 (43_loads_stores.md R170). -/
def effAddr (base : Word) (imm : BitVec 12) : Word := base + imm12 imm

/-- The seven loads. -/
inductive LoadKind where
  | lb
  | lh
  | lw
  | ld
  | lbu
  | lhu
  | lwu
deriving DecidableEq, Repr

/-- Bytes a load reads (20_memory.md R52). -/
def LoadKind.bytes : LoadKind → Nat
  | .lb | .lbu => 1
  | .lh | .lhu => 2
  | .lw | .lwu => 4
  | .ld => 8

/-- The extension of the value read (43_loads_stores.md R171). -/
def LoadKind.extend : LoadKind → Word → Word
  | .lb, v => (v.extractLsb' 0 8).signExtend 64
  | .lh, v => (v.extractLsb' 0 16).signExtend 64
  | .lw, v => sext32 (low32 v)
  | .ld, v => v
  | .lbu, v => (v.extractLsb' 0 8).setWidth 64
  | .lhu, v => (v.extractLsb' 0 16).setWidth 64
  | .lwu, v => (low32 v).setWidth 64

/-- The four stores. -/
inductive StoreKind where
  | sb
  | sh
  | sw
  | sd
deriving DecidableEq, Repr

/-- Bytes a store writes (20_memory.md R52). -/
def StoreKind.bytes : StoreKind → Nat
  | .sb => 1
  | .sh => 2
  | .sw => 4
  | .sd => 8

/-- inst_pc + 4, the link value of JAL and JALR (44_control.md R185). -/
def linkValue (pc : Word) : Word := pc + 4

/-- inst_pc + immJ (44_control.md R185). -/
def jalTarget (pc : Word) (off : BitVec 21) : Word := pc + immJ off

/-- (x[rs1] + immI) & ~1 (44_control.md R187). -/
def jalrTarget (base : Word) (imm : BitVec 12) : Word := (base + imm12 imm) &&& ~~~(1#64)

/-- inst_pc + immB (44_control.md R185). -/
def branchTarget (pc : Word) (off : BitVec 13) : Word := pc + immB off

end Sys2Proof.Machine
end

