-- ==== Sys2Proof/Machine/Alu.lean ====
section
/-! DEFINITION. The ALU, a pure function of an operation and two 64-bit operands (41_integer.md R110, 42_muldiv.md
R150), and the one case of it that can stop the run (42_muldiv.md R151). -/

namespace Sys2Proof.Machine

/-- The ALU's operation tags. -/
inductive AluOp where
  | add
  | sub
  | sll
  | srl
  | sra
  | and
  | or
  | xor
  | slt
  | sltu
  | addw
  | subw
  | sllw
  | srlw
  | sraw
  | mul
  | mulh
  | mulhsu
  | mulhu
  | div
  | divu
  | rem
  | remu
  | mulw
  | divw
  | divuw
  | remw
  | remuw
deriving DecidableEq, Repr

/-- The shift amount s = b[5:0] (41_integer.md R111). -/
def shiftAmount (b : Word) : Nat := b.toNat % 64

/-- The amount a word shift uses: all six bits under FULL, the low five under MOD32 (41_integer.md R112). -/
def wordShiftAmount (ws : WordShiftWide) (b : Word) : Nat :=
  match ws with
  | .full => shiftAmount b
  | .mod32 => shiftAmount b % 32

/-- SLLW (41_integer.md R110, R112): an amount of 32..63 shifts the 32-bit value out entirely. -/
def sllWord (ws : WordShiftWide) (a b : Word) : Word := sext32 (low32 a <<< wordShiftAmount ws b)

/-- SRLW (41_integer.md R110, R112). -/
def srlWord (ws : WordShiftWide) (a b : Word) : Word := sext32 (low32 a >>> wordShiftAmount ws b)

/-- SRAW (41_integer.md R110, R112): an amount of 32..63 leaves copies of bit 31. -/
def sraWord (ws : WordShiftWide) (a b : Word) : Word := sext32 ((low32 a).sshiftRight (wordShiftAmount ws b))

/-- All ones: the quotient of a division by zero (42_muldiv.md R150). -/
def allOnes : Word := 0xFFFFFFFFFFFFFFFF#64

/-- A = -2^63 and B = -1 (42_muldiv.md R151). -/
def divOverflows (a b : Word) : Bool := a == 0x8000000000000000#64 && b == allOnes

/-- A32 = -2^31 and B32 = -1 (42_muldiv.md R151). -/
def divOverflowsWord (a b : Word) : Bool := low32 a == 0x80000000#32 && low32 b == 0xFFFFFFFF#32

/-- Bits 127..64 of an exact product, modulo 2^64 (42_muldiv.md R150). -/
def highHalf (p : Int) : Word := BitVec.ofInt 64 (p >>> 64)

/-- DIV (42_muldiv.md R150; the overflow value is that of DIV_OVF = RISCV, R151). -/
def divSigned (a b : Word) : Word :=
  if b = 0 then allOnes
  else if divOverflows a b then 0x8000000000000000#64
  else BitVec.ofInt 64 (a.toInt.tdiv b.toInt)

/-- DIVU (42_muldiv.md R150). -/
def divUnsigned (a b : Word) : Word := if b = 0 then allOnes else BitVec.ofNat 64 (a.toNat / b.toNat)

/-- REM (42_muldiv.md R150, R151). -/
def remSigned (a b : Word) : Word :=
  if b = 0 then a
  else if divOverflows a b then 0
  else BitVec.ofInt 64 (a.toInt.tmod b.toInt)

/-- REMU (42_muldiv.md R150). -/
def remUnsigned (a b : Word) : Word := if b = 0 then a else BitVec.ofNat 64 (a.toNat % b.toNat)

/-- DIVW (42_muldiv.md R150, R151): by zero, all ones at full width. -/
def divSignedWord (a b : Word) : Word :=
  if low32 b = 0 then allOnes
  else if divOverflowsWord a b then 0xFFFFFFFF80000000#64
  else sext32 (BitVec.ofInt 32 ((low32 a).toInt.tdiv (low32 b).toInt))

/-- DIVUW (42_muldiv.md R150). -/
def divUnsignedWord (a b : Word) : Word :=
  if low32 b = 0 then allOnes else sext32 (BitVec.ofNat 32 ((low32 a).toNat / (low32 b).toNat))

/-- REMW (42_muldiv.md R150, R151): by zero, the low 32 bits of the dividend, sign-extended (90 C11). -/
def remSignedWord (a b : Word) : Word :=
  if low32 b = 0 then sext32 (low32 a)
  else if divOverflowsWord a b then 0
  else sext32 (BitVec.ofInt 32 ((low32 a).toInt.tmod (low32 b).toInt))

/-- REMUW (42_muldiv.md R150). -/
def remUnsignedWord (a b : Word) : Word :=
  if low32 b = 0 then sext32 (low32 a) else sext32 (BitVec.ofNat 32 ((low32 a).toNat % (low32 b).toNat))

/-- alu(op, a, b) (41_integer.md R110, 42_muldiv.md R150): total, no side effects. -/
def alu (ws : WordShiftWide) (op : AluOp) (a b : Word) : Word :=
  match op with
  | .add => a + b
  | .sub => a - b
  | .sll => a <<< shiftAmount b
  | .srl => a >>> shiftAmount b
  | .sra => a.sshiftRight (shiftAmount b)
  | .and => a &&& b
  | .or => a ||| b
  | .xor => a ^^^ b
  | .slt => boolWord (ltSigned a b)
  | .sltu => boolWord (ltUnsigned a b)
  | .addw => sext32 (low32 (a + b))
  | .subw => sext32 (low32 (a - b))
  | .sllw => sllWord ws a b
  | .srlw => srlWord ws a b
  | .sraw => sraWord ws a b
  | .mul => BitVec.ofInt 64 (a.toInt * b.toInt)
  | .mulh => highHalf (a.toInt * b.toInt)
  | .mulhsu => highHalf (a.toInt * (b.toNat : Int))
  | .mulhu => highHalf ((a.toNat : Int) * (b.toNat : Int))
  | .div => divSigned a b
  | .divu => divUnsigned a b
  | .rem => remSigned a b
  | .remu => remUnsigned a b
  | .mulw => sext32 (low32 (a * b))
  | .divw => divSignedWord a b
  | .divuw => divUnsignedWord a b
  | .remw => remSignedWord a b
  | .remuw => remUnsignedWord a b

/-- The operation raises ArithmeticFault: only a signed division overflow under DIV_OVF = FAULT (42_muldiv.md R151). -/
def aluFaults (dv : DivOverflow) (op : AluOp) (a b : Word) : Bool :=
  match dv, op with
  | .fault, .div | .fault, .rem => divOverflows a b
  | .fault, .divw | .fault, .remw => divOverflowsWord a b
  | _, _ => false

end Sys2Proof.Machine
end

