-- ==== Sys2Proof/Machine/State.lean ====
section
/-! DEFINITION. Everything the spec gives the machine, as plain data: the register file, the pc and the engine status
registers (10_state.md), the page table (20_memory.md R40), the five latches (70_reset_and_hazards.md R256), the console
streams (45_system.md R201, R202), the host's breakpoint table (60_exceptions.md R245) and the configuration (00_scope.md
R9); the reset state (10_state.md R33); and the ways a step can end. -/

namespace Sys2Proof.Machine

/-- The stop reasons with their information (60_exceptions.md R226). -/
inductive StopReason where
  | memoryFault (kind : AccessKind) (addr : Word)
  | fetchMisaligned (addr : Word)
  | stackExhausted (v : Word)
  | heapExhausted (new : Word)
  | unknownService (num : Word)
  | breakpoint (pc : Word)
  | arithmeticFault (pc : Word)
deriving DecidableEq, Repr

/-- What STOP records: the reason and the stopping instruction's address (60_exceptions.md R228). ICOUNT and CYCLES at
the stop are the state's own, which no later step changes. -/
structure Stop where
  reason : StopReason
  instPc : Word
deriving DecidableEq, Repr

/-- What an unwritten byte of a page reads as: 0, or a draw of its own (20_memory.md R49, R56; log 4). -/
inductive PageFill where
  | zero
  | drawn (n : Nat)
deriving DecidableEq, Repr

/-- A present page (20_memory.md R40): base, W, X, and what its unwritten bytes read as. -/
structure Page where
  base       : Nat
  writable   : Bool
  executable : Bool
  fill       : PageFill
deriving DecidableEq, Repr

/-- The page table (20_memory.md R40): the present pages, bases strictly rising, and the bytes written to them,
addresses strictly rising; `Memory.wf` is the canonical form (log 5). -/
structure Memory where
  pages : List Page
  cells : List Host.Cell
deriving DecidableEq, Repr

/-- No page at all. -/
def Memory.empty : Memory := { pages := [], cells := [] }

/-- The first draw number no page of `pages` uses, so that a new page's contents are a draw of its own (log 4). -/
def nextDraw : List Page → Nat
  | [] => 0
  | p :: ps =>
    match p.fill with
    | .zero => nextDraw ps
    | .drawn n => max (n + 1) (nextDraw ps)

/-- The F latch (70_reset_and_hazards.md R256, R257): the address Fetch reads; it has no valid bit. -/
structure FetchLatch where
  pc : Word
deriving DecidableEq, Repr

/-- The D latch (70_reset_and_hazards.md R256). -/
structure DecodeLatch where
  valid  : Bool
  pc     : Word
  raw    : InstWord
  ptaken : Bool
  exc    : Option StopReason
deriving DecidableEq, Repr

/-- The E latch (70_reset_and_hazards.md R256); `d` is the decoded record of 30_encoding.md R82, `a` and `b`
are the resolved operand values. -/
structure ExecuteLatch where
  valid  : Bool
  pc     : Word
  d      : DecodedRecord
  a      : Word
  b      : Word
  ptaken : Bool
  exc    : Option StopReason
deriving DecidableEq, Repr

/-- The M latch, and the W latch, which has the same fields (70_reset_and_hazards.md R256). -/
structure MemoryLatch where
  valid  : Bool
  pc     : Word
  d      : DecodedRecord
  value  : Word
  addr   : Word
  sdata  : Word
  taken  : Bool
  target : Word
  exc    : Option StopReason
deriving DecidableEq, Repr

/-- A bubble in D: valid = 0 and every other field zero (70_reset_and_hazards.md R257). -/
def DecodeLatch.bubble : DecodeLatch := { valid := false, pc := 0, raw := 0, ptaken := false, exc := none }

/-- A bubble in E (70_reset_and_hazards.md R257). -/
def ExecuteLatch.bubble : ExecuteLatch :=
  { valid := false, pc := 0, d := .nothing, a := 0, b := 0, ptaken := false, exc := none }

/-- A bubble in M or W (70_reset_and_hazards.md R257). -/
def MemoryLatch.bubble : MemoryLatch :=
  { valid := false, pc := 0, d := .nothing, value := 0, addr := 0, sdata := 0, taken := false, target := 0, exc := none }

/-- An entry of the host's breakpoint table (60_exceptions.md R245). -/
structure Breakpoint where
  addr    : Word
  enabled : Bool
deriving DecidableEq, Repr

/-- The state of the core. Slot 0 of `regs` is never read and never written (10_state.md R20). -/
structure State where
  /-- the parameters, read-only (00_scope.md R9, 10_state.md R30) -/
  cfg         : Config
  /-- x0..x31 (10_state.md R20) -/
  regs        : Vector Word 32
  /-- atomic mode: the address of the next instruction to fetch (10_state.md R23) -/
  pc          : Word
  /-- the page table (10_state.md R31) -/
  mem         : Memory
  /-- HEAP, the break (10_state.md R29) -/
  heap        : Word
  /-- FINISHED (10_state.md R29) -/
  finished    : Bool
  /-- EXIT_STATUS (10_state.md R29) -/
  exitStatus  : Word
  /-- STOP (10_state.md R29) -/
  stop        : Option Stop
  /-- HOLD (10_state.md R29) -/
  hold        : Bool
  /-- ICOUNT (10_state.md R29) -/
  icount      : Word
  /-- CYCLES, pipelined mode (10_state.md R29) -/
  cycles      : Word
  /-- the console output stream, oldest byte first (45_system.md R201) -/
  output      : List Byte
  /-- the values the host's buffered input will answer reads with, oldest first (45_system.md R202; log 6) -/
  input       : List Word
  /-- the host's breakpoint table (60_exceptions.md R245) -/
  breakpoints : List Breakpoint
  /-- the run was paused at the check point and is being resumed (70_reset_and_hazards.md R258; log 12) -/
  resuming    : Bool
  /-- the MODEL's own counter of drawn pages (log 4) -/
  draws       : Nat
  /-- the five latches (70_reset_and_hazards.md R256) -/
  fl          : FetchLatch
  dl          : DecodeLatch
  el          : ExecuteLatch
  ml          : MemoryLatch
  wl          : MemoryLatch
deriving DecidableEq, Repr

/-- Outcome.fault is never answered: every fatal condition of the spec is a stop, recorded in STOP (60_exceptions.md
R225, R226), and the state it leaves is a next state (log 7). So this type has no constructor. -/
inductive Fault where
deriving DecidableEq, Repr

/-- The ways the model refuses. -/
inductive Refusal where
  /-- An instruction without a meaning, raised by `exec`'s refused arms; there is none. Safe. -/
  | notModelled (mnemonic : String)
  /-- A launch whose configuration or image breaks 00_scope.md R10 or 70_reset_and_hazards.md R252, raised by `launch`
  and by no step: the spec says such a launch does not happen (R254). Safe. -/
  | launchRejected
deriving DecidableEq, Repr

/-- The state after reset (10_state.md R33, 70_reset_and_hazards.md R250) of a launch with configuration `cfg`, image
pages `mem`, host breakpoint table `bps` and register draws `draw`: x0 = 0, x2 = STACK_TOP, and every other register
holds its draw, which a claim about launches leaves universally quantified (93 U1). -/
def State.initial (cfg : Config) (mem : Memory) (bps : List Breakpoint) (draw : Vector Word 32) : State where
  cfg := cfg
  regs := (draw.set 0 0).set 2 cfg.stackTop
  pc := cfg.entry
  mem := mem
  heap := cfg.heapBase
  finished := false
  exitStatus := 0
  stop := none
  hold := false
  icount := 0
  cycles := 0
  output := []
  input := []
  breakpoints := bps
  resuming := false
  draws := nextDraw mem.pages
  fl := { pc := cfg.entry }
  dl := .bubble
  el := .bubble
  ml := .bubble
  wl := .bubble

/-- The machine right after reset, with no image installed, the parameters of 95_test_vectors.md section 0 and, as the
named value of every register the spec leaves unspecified, 0 (logs 1, 3, 10; DESIGN CHOICE, unsafe: a claim must not
rest on those zeros, and none of the statements does). -/
def State.reset : State := State.initial Config.default Memory.empty [] (Vector.replicate 32 0)

end Sys2Proof.Machine
end

