-- ==== Sys2Proof/Machine/Memory.lean ====
section
/-! DEFINITION. The virtual-memory walker and the access primitives (20_memory.md R40-R49): the lookup of a byte, the
access check, MemRead, MemWrite, MemFetch and page creation; and the canonical form of the page table. Byte order is
decided here, once. -/

namespace Sys2Proof.Machine

/-- PAGE (00_scope.md R9). -/
def pageSize (c : Config) : Nat := 2 ^ c.pageBits

/-- page(a) = a & ~(PAGE - 1) (20_memory.md R41). -/
def pageBase (c : Config) (a : Nat) : Nat := a - a % pageSize c

/-- The present page with base `p`, if any. -/
def findPage : List Page → Nat → Option Page
  | [], _ => none
  | q :: qs, p => if q.base = p then some q else findPage qs p

/-- walk(a): the page that holds address `a`, or absent (20_memory.md R41). DESIGN CHOICE (log 21): where MAXADDR is no
multiple of PAGE, the bytes at or above it in the page that holds MAXADDR - 1 are present with their page, as R41 and R49
read, although R42 and R55 say that no address at or above MAXADDR is; every access to them faults (R45). -/
def walk (c : Config) (m : Memory) (a : Nat) : Option Page := findPage m.pages (pageBase c a)

/-- The byte a cell list holds for an address, if it lists one. -/
def cellAt : List Host.Cell → Nat → Option Byte
  | [], _ => none
  | (k, v) :: cs, a => if k = a then some v else cellAt cs a

/-- What an unlisted byte of page `p` at address `a` reads as: the ONE definition (20_memory.md R49, R56; log 4). -/
def unlistedByte (p : Page) (a : Nat) : Byte :=
  match p.fill with
  | .zero => 0
  | .drawn n => Config.drawnByte n (a - p.base)

/-- The byte at address `a` of a present page; none where the page is absent (20_memory.md R40, R41). -/
def byteAt (c : Config) (m : Memory) (a : Nat) : Option Byte :=
  match walk c m a with
  | none => none
  | some p =>
    match cellAt m.cells a with
    | some v => some v
    | none => some (unlistedByte p a)

/-! ### The access check (R45) -/

/-- A page permits an access kind: every present page is readable (R40, R45). -/
def Page.allows (p : Page) : AccessKind → Bool
  | .read => true
  | .write => p.writable
  | .fetch => p.executable

/-- One byte of an access is allowed (R45): below MAXADDR, present, and permitted. -/
def byteAllowed (c : Config) (m : Memory) (k : AccessKind) (a : Nat) : Bool :=
  a < c.maxAddr.toNat &&
    match walk c m a with
    | none => false
    | some p => p.allows k

/-- The lowest faulting byte of an access of `n` bytes at `a`, counted without wrapping; none where it is allowed
(R45). -/
def firstFault (c : Config) (m : Memory) (k : AccessKind) : Nat → Nat → Option Nat
  | _, 0 => none
  | a, n + 1 => if byteAllowed c m k a then firstFault c m k (a + 1) n else some a

/-! ### Bytes and little-endian values (R44) -/

/-- The sum over i < n of byte(a+i) * 2^(8i) (R44). -/
def readLE (c : Config) (m : Memory) : Nat → Nat → Nat
  | _, 0 => 0
  | a, n + 1 => ((byteAt c m a).getD 0).toNat + 256 * readLE c m (a + 1) n

/-- Puts a byte into a cell list at its place. -/
def insertCell : List Host.Cell → Nat → Byte → List Host.Cell
  | [], a, v => [(a, v)]
  | (k, w) :: cs, a, v =>
    if a < k then (a, v) :: (k, w) :: cs
    else if a = k then (a, v) :: cs
    else (k, w) :: insertCell cs a v

/-- Takes an address out of a cell list. -/
def removeCell : List Host.Cell → Nat → List Host.Cell
  | [], _ => []
  | (k, w) :: cs, a => if k = a then removeCell cs a else (k, w) :: removeCell cs a

/-- byte(a) <- v (R47). Writing 0 into a page whose unlisted bytes read as 0 takes the entry out, so the list stays
canonical (log 5). An absent page is left absent: a program store never creates one. -/
def setByte (c : Config) (m : Memory) (a : Nat) (v : Byte) : Memory :=
  match walk c m a with
  | none => m
  | some p =>
    if p.fill = .zero ∧ v = 0 then { m with cells := removeCell m.cells a }
    else { m with cells := insertCell m.cells a v }

/-- byte(a+i) <- v[8i+7:8i] for each i < n (R47). -/
def writeLE (c : Config) (m : Memory) : Nat → Nat → Word → Memory
  | _, 0, _ => m
  | a, n + 1, v => writeLE c (setByte c m a (v.extractLsb' 0 8)) (a + 1) n (v >>> 8)

/-! ### The access primitives (R46, R47, R48) -/

/-- MemRead (R46): the n-byte value, zero-extended. -/
def memRead (c : Config) (m : Memory) (a : Word) (n : Nat) : Except StopReason Word :=
  match firstFault c m .read a.toNat n with
  | some b => .error (.memoryFault .read (BitVec.ofNat 64 b))
  | none => .ok (BitVec.ofNat 64 (readLE c m a.toNat n))

/-- MemWrite (R47): all bytes are checked before any changes. -/
def memWrite (c : Config) (m : Memory) (a : Word) (n : Nat) (v : Word) : Except StopReason Memory :=
  match firstFault c m .write a.toNat n with
  | some b => .error (.memoryFault .write (BitVec.ofNat 64 b))
  | none => .ok (writeLE c m a.toNat n v)

/-- MemFetch (R48). -/
def memFetch (c : Config) (m : Memory) (a : Word) : Except StopReason InstWord :=
  if a.toNat % 4 ≠ 0 then .error (.fetchMisaligned a)
  else
    match firstFault c m .fetch a.toNat 4 with
    | some b => .error (.memoryFault .fetch (BitVec.ofNat 64 b))
    | none => .ok (BitVec.ofNat 32 (readLE c m a.toNat 4))

/-! ### Page creation (R49) -/

/-- Puts a page into the table at its place; a page already there stays as it is. -/
def insertPage : List Page → Page → List Page
  | [], p => [p]
  | q :: qs, p =>
    if p.base < q.base then p :: q :: qs
    else if p.base = q.base then q :: qs
    else q :: insertPage qs p

/-! ### The canonical form (log 5) -/

/-- Bases strictly rising, each above `lo`. -/
def pagesRising : Nat → List Page → Bool
  | _, [] => true
  | lo, p :: ps => decide (lo ≤ p.base) && pagesRising (p.base + 1) ps

/-- Addresses strictly rising, each at least `lo`. -/
def cellsRising : Nat → List Host.Cell → Bool
  | _, [] => true
  | lo, (a, _) :: cs => decide (lo ≤ a) && cellsRising (a + 1) cs

/-- A page base is a multiple of PAGE and below MAXADDR (R40, R42, R49); a page is judged by its base (log 21). -/
def pageOk (c : Config) (p : Page) : Bool :=
  decide (p.base % pageSize c = 0) && decide (p.base < c.maxAddr.toNat)

/-- A listed byte lies in a present page and is not what an unlisted byte reads as, where that is a value of the
model's (a draw is none). -/
def cellOk (c : Config) (m : Memory) (cell : Host.Cell) : Bool :=
  match walk c m cell.1 with
  | none => false
  | some p => !(decide (p.fill = .zero) && decide (cell.2 = 0))

/-- The canonical form of the page table. -/
def Memory.wf (c : Config) (m : Memory) : Bool :=
  pagesRising 0 m.pages && cellsRising 0 m.cells && m.pages.all (pageOk c) && m.cells.all (cellOk c m)

end Sys2Proof.Machine
end

