-- ==== Sys2Proof/Machine/Ops.lean ====
section
/-! DEFINITION. The named operations every instruction is written with: reading and writing a register (10_state.md
R20), raising a stop (60_exceptions.md R225-R232, the only exception entry of this hardware; it has no return, R235),
page allocation (20_memory.md R49), the register commit with the stack rule (40_execution_step.md R99), and the end of
an instruction (R100, R101). -/

namespace Sys2Proof.Machine

/-- How a meaning ends. -/
abbrev StepOutcome := Host.Outcome State Fault Refusal

/-- The stack pointer, x2 (10_state.md R21, D48). -/
def spReg : Reg := 2#5

/-! ### Registers -/

/-- x[i]: 0 for x0 (10_state.md R20). -/
def State.reg (s : State) (r : Reg) : Word := if r = 0 then 0 else s.regs.get r.toFin

/-- RF[i] <- v: discarded for x0 (10_state.md R20). -/
def State.setReg (s : State) (r : Reg) (v : Word) : State :=
  if r = 0 then s else { s with regs := s.regs.set r.toNat v r.isLt }

/-! ### Stops -/

/-- raise Stop(reason) by the instruction at `pc`: STOP records it and nothing else changes (60_exceptions.md R225,
R228, R232). -/
def State.raise (s : State) (e : StopReason) (pc : Word) : State := { s with stop := some { reason := e, instPc := pc } }

/-- The code of a stop reason (60_exceptions.md R226). -/
def StopReason.code : StopReason → Nat
  | .memoryFault .. => 1
  | .fetchMisaligned .. => 2
  | .stackExhausted .. => 3
  | .heapExhausted .. => 4
  | .unknownService .. => 5
  | .breakpoint .. => 6
  | .arithmeticFault .. => 7

/-- The run has ended: FINISHED or STOP (40_execution_step.md R102). -/
def State.ended (s : State) : Bool := s.finished || s.stop.isSome

/-! ### Memory of the state -/

/-- Replaces the page table. -/
def State.setMem (s : State) (m : Memory) : State := { s with mem := m }

/-- The contents of the next new page (20_memory.md R49, NEW_PAGE_FILL). -/
def State.newFill (s : State) : PageFill :=
  match s.cfg.newPageFill with
  | .zero => .zero
  | .unspecified => .drawn s.draws

/-- Alloc(p, W, X) (20_memory.md R49): nothing at or above MAXADDR, nothing where the page is present. -/
def State.alloc (s : State) (p : Nat) (w x : Bool) : State :=
  if p < s.cfg.maxAddr.toNat then
    match findPage s.mem.pages p with
    | some _ => s
    | none =>
      { s with
        mem := { s.mem with pages := insertPage s.mem.pages { base := p, writable := w, executable := x, fill := s.newFill } }
        draws := s.draws + 1 }
  else s

/-- Alloc of `n` pages from base `p` upward, W = 1, X = 0 (45_system.md R208). -/
def State.allocPages : Nat → Nat → State → State
  | 0, _, s => s
  | n + 1, p, s => State.allocPages n (p + pageSize s.cfg) (s.alloc p true false)

/-! ### Commit and end of an instruction -/

/-- The register commit x[i] <- v of every Writeback (40_execution_step.md R99). -/
def commit (r : Reg) (v : Word) (s : State) : Except StopReason State :=
  if r = 0 then .ok s
  else if r = spReg then
    if v < s.cfg.heapMax ∨ s.cfg.maxAddr < v then .error (.stackExhausted v)
    else .ok ((s.alloc (pageBase s.cfg v.toNat) true false).setReg r v)
  else .ok (s.setReg r v)

/-- The instruction is counted and the next fetch address is `npc` (40_execution_step.md R100, R101). -/
def State.retire (s : State) (npc : Word) : State := { s with pc := npc, icount := s.icount + 1 }

/-- pc + 4, modulo 2^64 (10_state.md R23). -/
def nextPc (s : State) : Word := s.pc + 4

/-- Writeback of an instruction that commits `v` to `rd` and continues at `npc`: the commit comes first, and if it
stops, nothing else happens (40_execution_step.md R100, R101, R104). -/
def writeback (rd : Reg) (v npc : Word) (s : State) : StepOutcome :=
  match commit rd v s with
  | .error e => .next (s.raise e s.pc)
  | .ok t => .next (t.retire npc)

/-! ### Console -/

/-- HostOut(bytes) (45_system.md R201). -/
def State.emit (s : State) (bs : List Byte) : State := { s with output := s.output ++ bs }

/-- The core holds: HOLD <- 1 and nothing else (45_system.md R202). -/
def State.holdForInput (s : State) : State := { s with hold := true }

/-- The host supplies input: HOLD <- 0 and the values its new line will answer (45_system.md R202; log 6). -/
def State.supplyInput (s : State) (vs : List Word) : State := { s with hold := false, input := s.input ++ vs }

/-! ### Debug check point -/

/-- An enabled breakpoint holds the address (60_exceptions.md R245). -/
def breakpointEnabled (bps : List Breakpoint) (a : Word) : Bool := bps.any fun b => b.enabled && b.addr == a

/-- The check point fires: before fetching at pc in atomic mode (40_execution_step.md R103), before W commits its
instruction in pipelined mode (70_reset_and_hazards.md R274). -/
def State.atCheckPoint (s : State) : Bool :=
  match s.cfg.mode with
  | .atomic => breakpointEnabled s.breakpoints s.pc
  | .pipelined => s.wl.valid && breakpointEnabled s.breakpoints s.wl.pc

/-- The run loop's pause: a mark that the next step is performed without the check; nothing else changes (log 12). -/
def State.pause (s : State) : State := { s with resuming := true }

/-- A resumed step that completed ends the resumption; a held one has not completed (40_execution_step.md R103). -/
def State.endResume (s : State) : State := { s with resuming := s.resuming && s.hold }

/-! ### Placing an instruction word -/

/-- The address the next step fetches from. -/
def State.fetchPc (s : State) : Word :=
  match s.cfg.mode with
  | .atomic => s.pc
  | .pipelined => s.fl.pc

/-- Makes the page at base `p` present and executable: a zero-filled page if it was absent, its X bit set if not. -/
def makeExecutable : List Page → Nat → List Page
  | [], p => [{ base := p, writable := false, executable := true, fill := .zero }]
  | q :: qs, p =>
    if p < q.base then { base := p, writable := false, executable := true, fill := .zero } :: q :: qs
    else if p = q.base then { q with executable := true } :: qs
    else q :: makeExecutable qs p

/-- The four bytes of an instruction word at the fetch address, in an executable page: what the image load does for one
word (70_reset_and_hazards.md R252; log 10). -/
def State.placeWord (s : State) (w : Nat) : State :=
  let a := s.fetchPc.toNat
  let m : Memory := { s.mem with pages := makeExecutable s.mem.pages (pageBase s.cfg a) }
  { s with mem := writeLE s.cfg m a 4 (BitVec.ofNat 64 w) }

end Sys2Proof.Machine
end

