-- ==== Sys2Proof/Machine/Execute.lean ====
section
/-! DEFINITION. The phases every instruction is made of (40_execution_step.md R95, R98), written once: what Execute hands
on, and the atomic engine's Memory and Writeback for each shape of it. -/

namespace Sys2Proof.Machine

/-- What the Execute phase gives (40_execution_step.md R98): the pipelined engine's E stage and the atomic meaning of an
instruction both start from it. -/
inductive Executed where
  /-- a result to commit -/
  | value (v : Word)
  /-- a load's address -/
  | load (k : LoadKind) (ea : Word)
  /-- a store's address and data -/
  | store (k : StoreKind) (ea data : Word)
  /-- a jump's link value and target -/
  | jump (link target : Word)
  /-- a branch's outcome and target -/
  | branch (taken : Bool) (target : Word)
  /-- a stop raised in Execute (60_exceptions.md R227) -/
  | stops (e : StopReason)
  /-- nothing: ECALL, which works in Writeback (45_system.md R200), and UNIMPLEMENTED (R214) -/
  | nothing
deriving DecidableEq, Repr

/-- Execute of an ALU operation at address `pc`: its result, or ArithmeticFault (42_muldiv.md R151). -/
def aluExecuted (c : Config) (op : AluOp) (a b pc : Word) : Executed :=
  if aluFaults c.divOvf op a b then .stops (.arithmeticFault pc) else .value (alu c.wshiftWide op a b)

/-- Memory and Writeback of a load (43_loads_stores.md R171). -/
def finishLoad (k : LoadKind) (ea : Word) (rd : Reg) (s : State) : StepOutcome :=
  match memRead s.cfg s.mem ea k.bytes with
  | .error e => .next (s.raise e s.pc)
  | .ok v => writeback rd (k.extend v) (nextPc s) s

/-- Memory of a store, whose Writeback is empty (43_loads_stores.md R172). -/
def finishStore (k : StoreKind) (ea data : Word) (s : State) : StepOutcome :=
  match memWrite s.cfg s.mem ea k.bytes data with
  | .error e => .next (s.raise e s.pc)
  | .ok m => .next ((s.setMem m).retire (nextPc s))

/-- Writeback of a branch: the redirect if it is taken (44_control.md R185). -/
def finishBranch (taken : Bool) (target : Word) (s : State) : StepOutcome :=
  .next (s.retire (if taken then target else nextPc s))

/-- Memory and Writeback of an instruction with destination field `rd` whose Execute gave `x` (40_execution_step.md R95,
R100, R101). -/
def finish (x : Executed) (rd : Reg) (s : State) : StepOutcome :=
  match x with
  | .value v => writeback rd v (nextPc s) s
  | .load k ea => finishLoad k ea rd s
  | .store k ea data => finishStore k ea data s
  | .jump link target => writeback rd link target s
  | .branch taken target => finishBranch taken target s
  | .stops e => .next (s.raise e s.pc)
  | .nothing => .next (s.retire (nextPc s))

/-- Memory and Writeback of an instruction with no destination (30_encoding.md R84). -/
def finishNoDest (x : Executed) (s : State) : StepOutcome := finish x 0 s

end Sys2Proof.Machine
end

