-- ==== Sys2Proof/Machine/Control.lean ====
section
/-! DEFINITION. The jumps and branches (44_control.md R189-R196): for each its Execute phase and its atomic meaning. No
target is checked for alignment (R186): the next fetch is. -/

namespace Sys2Proof.Machine

/-- JAL, Execute (R189). -/
def exJal (off : BitVec 21) (pc : Word) : Executed := .jump (linkValue pc) (jalTarget pc off)
/-- JAL (R189). -/
def execJal (rd : Reg) (off : BitVec 21) (s : State) : StepOutcome := finish (exJal off s.pc) rd s

/-- JALR, Execute (R190, R187). -/
def exJalr (imm : BitVec 12) (a pc : Word) : Executed := .jump (linkValue pc) (jalrTarget a imm)
/-- JALR (R190). -/
def execJalr (rd rs1 : Reg) (imm : BitVec 12) (s : State) : StepOutcome := finish (exJalr imm (s.reg rs1) s.pc) rd s

/-- BEQ, Execute (R191). -/
def exBeq (off : BitVec 13) (a b pc : Word) : Executed := .branch (takenBeq a b) (branchTarget pc off)
/-- BEQ (R191). -/
def execBeq (rs1 rs2 : Reg) (off : BitVec 13) (s : State) : StepOutcome :=
  finishNoDest (exBeq off (s.reg rs1) (s.reg rs2) s.pc) s

/-- BNE, Execute (R192). -/
def exBne (off : BitVec 13) (a b pc : Word) : Executed := .branch (takenBne a b) (branchTarget pc off)
/-- BNE (R192). -/
def execBne (rs1 rs2 : Reg) (off : BitVec 13) (s : State) : StepOutcome :=
  finishNoDest (exBne off (s.reg rs1) (s.reg rs2) s.pc) s

/-- BLT, Execute (R193). -/
def exBlt (off : BitVec 13) (a b pc : Word) : Executed := .branch (takenBlt a b) (branchTarget pc off)
/-- BLT (R193). -/
def execBlt (rs1 rs2 : Reg) (off : BitVec 13) (s : State) : StepOutcome :=
  finishNoDest (exBlt off (s.reg rs1) (s.reg rs2) s.pc) s

/-- BGE, Execute (R194). -/
def exBge (off : BitVec 13) (a b pc : Word) : Executed := .branch (takenBge a b) (branchTarget pc off)
/-- BGE (R194). -/
def execBge (rs1 rs2 : Reg) (off : BitVec 13) (s : State) : StepOutcome :=
  finishNoDest (exBge off (s.reg rs1) (s.reg rs2) s.pc) s

/-- BLTU, Execute (R195). -/
def exBltu (off : BitVec 13) (a b pc : Word) : Executed := .branch (takenBltu a b) (branchTarget pc off)
/-- BLTU (R195). -/
def execBltu (rs1 rs2 : Reg) (off : BitVec 13) (s : State) : StepOutcome :=
  finishNoDest (exBltu off (s.reg rs1) (s.reg rs2) s.pc) s

/-- BGEU, Execute (R196). -/
def exBgeu (off : BitVec 13) (a b pc : Word) : Executed := .branch (takenBgeu a b) (branchTarget pc off)
/-- BGEU (R196). -/
def execBgeu (rs1 rs2 : Reg) (off : BitVec 13) (s : State) : StepOutcome :=
  finishNoDest (exBgeu off (s.reg rs1) (s.reg rs2) s.pc) s

end Sys2Proof.Machine
end

