-- ==== Sys2Proof/Machine/Integer.lean ====
section
/-! DEFINITION. The thirty integer computational instructions (41_integer.md R114-R143): for each its Execute phase (`ex…`) and
its atomic meaning (`exec…`). Each writes only its destination, through the commit, and no flag (R27). -/

namespace Sys2Proof.Machine

/-- LUI, Execute (R114). -/
def exLui (imm : BitVec 20) : Executed := .value (immU imm)
/-- LUI (R114). -/
def execLui (rd : Reg) (imm : BitVec 20) (s : State) : StepOutcome := finish (exLui imm) rd s

/-- AUIPC, Execute (R115). -/
def exAuipc (imm : BitVec 20) (pc : Word) : Executed := .value (pc + immU imm)
/-- AUIPC (R115). -/
def execAuipc (rd : Reg) (imm : BitVec 20) (s : State) : StepOutcome := finish (exAuipc imm s.pc) rd s

/-- ADDI, Execute (R116). -/
def exAddi (c : Config) (imm : BitVec 12) (a pc : Word) : Executed := aluExecuted c .add a (imm12 imm) pc
/-- ADDI (R116). -/
def execAddi (rd rs1 : Reg) (imm : BitVec 12) (s : State) : StepOutcome :=
  finish (exAddi s.cfg imm (s.reg rs1) s.pc) rd s

/-- SLTI, Execute (R117). -/
def exSlti (c : Config) (imm : BitVec 12) (a pc : Word) : Executed := aluExecuted c .slt a (imm12 imm) pc
/-- SLTI (R117). -/
def execSlti (rd rs1 : Reg) (imm : BitVec 12) (s : State) : StepOutcome :=
  finish (exSlti s.cfg imm (s.reg rs1) s.pc) rd s

/-- SLTIU, Execute (R118). -/
def exSltiu (c : Config) (imm : BitVec 12) (a pc : Word) : Executed := aluExecuted c .sltu a (imm12 imm) pc
/-- SLTIU (R118). -/
def execSltiu (rd rs1 : Reg) (imm : BitVec 12) (s : State) : StepOutcome :=
  finish (exSltiu s.cfg imm (s.reg rs1) s.pc) rd s

/-- XORI, Execute (R119). -/
def exXori (c : Config) (imm : BitVec 12) (a pc : Word) : Executed := aluExecuted c .xor a (imm12 imm) pc
/-- XORI (R119). -/
def execXori (rd rs1 : Reg) (imm : BitVec 12) (s : State) : StepOutcome :=
  finish (exXori s.cfg imm (s.reg rs1) s.pc) rd s

/-- ORI, Execute (R120). -/
def exOri (c : Config) (imm : BitVec 12) (a pc : Word) : Executed := aluExecuted c .or a (imm12 imm) pc
/-- ORI (R120). -/
def execOri (rd rs1 : Reg) (imm : BitVec 12) (s : State) : StepOutcome :=
  finish (exOri s.cfg imm (s.reg rs1) s.pc) rd s

/-- ANDI, Execute (R121). -/
def exAndi (c : Config) (imm : BitVec 12) (a pc : Word) : Executed := aluExecuted c .and a (imm12 imm) pc
/-- ANDI (R121). -/
def execAndi (rd rs1 : Reg) (imm : BitVec 12) (s : State) : StepOutcome :=
  finish (exAndi s.cfg imm (s.reg rs1) s.pc) rd s

/-- SLLI, Execute (R122). -/
def exSlli (c : Config) (imm : BitVec 12) (a pc : Word) : Executed := aluExecuted c .sll a ((shamtOf imm).setWidth 64) pc
/-- SLLI (R122). -/
def execSlli (rd rs1 : Reg) (imm : BitVec 12) (s : State) : StepOutcome :=
  finish (exSlli s.cfg imm (s.reg rs1) s.pc) rd s

/-- SRLI, Execute (R123). -/
def exSrli (c : Config) (imm : BitVec 12) (a pc : Word) : Executed := aluExecuted c .srl a ((shamtOf imm).setWidth 64) pc
/-- SRLI (R123). -/
def execSrli (rd rs1 : Reg) (imm : BitVec 12) (s : State) : StepOutcome :=
  finish (exSrli s.cfg imm (s.reg rs1) s.pc) rd s

/-- SRAI, Execute (R124). -/
def exSrai (c : Config) (imm : BitVec 12) (a pc : Word) : Executed := aluExecuted c .sra a ((shamtOf imm).setWidth 64) pc
/-- SRAI (R124). -/
def execSrai (rd rs1 : Reg) (imm : BitVec 12) (s : State) : StepOutcome :=
  finish (exSrai s.cfg imm (s.reg rs1) s.pc) rd s

/-- ADD, Execute (R125). -/
def exAdd (c : Config) (a b pc : Word) : Executed := aluExecuted c .add a b pc
/-- ADD (R125). -/
def execAdd (rd rs1 rs2 : Reg) (s : State) : StepOutcome :=
  finish (exAdd s.cfg (s.reg rs1) (s.reg rs2) s.pc) rd s

/-- SUB, Execute (R126). -/
def exSub (c : Config) (a b pc : Word) : Executed := aluExecuted c .sub a b pc
/-- SUB (R126). -/
def execSub (rd rs1 rs2 : Reg) (s : State) : StepOutcome :=
  finish (exSub s.cfg (s.reg rs1) (s.reg rs2) s.pc) rd s

/-- SLL, Execute (R127). -/
def exSll (c : Config) (a b pc : Word) : Executed := aluExecuted c .sll a b pc
/-- SLL (R127). -/
def execSll (rd rs1 rs2 : Reg) (s : State) : StepOutcome :=
  finish (exSll s.cfg (s.reg rs1) (s.reg rs2) s.pc) rd s

/-- SLT, Execute (R128). -/
def exSlt (c : Config) (a b pc : Word) : Executed := aluExecuted c .slt a b pc
/-- SLT (R128). -/
def execSlt (rd rs1 rs2 : Reg) (s : State) : StepOutcome :=
  finish (exSlt s.cfg (s.reg rs1) (s.reg rs2) s.pc) rd s

/-- SLTU, Execute (R129). -/
def exSltu (c : Config) (a b pc : Word) : Executed := aluExecuted c .sltu a b pc
/-- SLTU (R129). -/
def execSltu (rd rs1 rs2 : Reg) (s : State) : StepOutcome :=
  finish (exSltu s.cfg (s.reg rs1) (s.reg rs2) s.pc) rd s

/-- XOR, Execute (R130). -/
def exXor (c : Config) (a b pc : Word) : Executed := aluExecuted c .xor a b pc
/-- XOR (R130). -/
def execXor (rd rs1 rs2 : Reg) (s : State) : StepOutcome :=
  finish (exXor s.cfg (s.reg rs1) (s.reg rs2) s.pc) rd s

/-- SRL, Execute (R131). -/
def exSrl (c : Config) (a b pc : Word) : Executed := aluExecuted c .srl a b pc
/-- SRL (R131). -/
def execSrl (rd rs1 rs2 : Reg) (s : State) : StepOutcome :=
  finish (exSrl s.cfg (s.reg rs1) (s.reg rs2) s.pc) rd s

/-- SRA, Execute (R132). -/
def exSra (c : Config) (a b pc : Word) : Executed := aluExecuted c .sra a b pc
/-- SRA (R132). -/
def execSra (rd rs1 rs2 : Reg) (s : State) : StepOutcome :=
  finish (exSra s.cfg (s.reg rs1) (s.reg rs2) s.pc) rd s

/-- OR, Execute (R133). -/
def exOr (c : Config) (a b pc : Word) : Executed := aluExecuted c .or a b pc
/-- OR (R133). -/
def execOr (rd rs1 rs2 : Reg) (s : State) : StepOutcome :=
  finish (exOr s.cfg (s.reg rs1) (s.reg rs2) s.pc) rd s

/-- AND, Execute (R134). -/
def exAnd (c : Config) (a b pc : Word) : Executed := aluExecuted c .and a b pc
/-- AND (R134). -/
def execAnd (rd rs1 rs2 : Reg) (s : State) : StepOutcome :=
  finish (exAnd s.cfg (s.reg rs1) (s.reg rs2) s.pc) rd s

/-- ADDIW, Execute (R135). -/
def exAddiw (c : Config) (imm : BitVec 12) (a pc : Word) : Executed := aluExecuted c .addw a (imm12 imm) pc
/-- ADDIW (R135). -/
def execAddiw (rd rs1 : Reg) (imm : BitVec 12) (s : State) : StepOutcome :=
  finish (exAddiw s.cfg imm (s.reg rs1) s.pc) rd s

/-- SLLIW, Execute (R136). -/
def exSlliw (c : Config) (imm : BitVec 12) (a pc : Word) : Executed := aluExecuted c .sllw a ((shamtOf imm).setWidth 64) pc
/-- SLLIW (R136). -/
def execSlliw (rd rs1 : Reg) (imm : BitVec 12) (s : State) : StepOutcome :=
  finish (exSlliw s.cfg imm (s.reg rs1) s.pc) rd s

/-- SRLIW, Execute (R137). -/
def exSrliw (c : Config) (imm : BitVec 12) (a pc : Word) : Executed := aluExecuted c .srlw a ((shamtOf imm).setWidth 64) pc
/-- SRLIW (R137). -/
def execSrliw (rd rs1 : Reg) (imm : BitVec 12) (s : State) : StepOutcome :=
  finish (exSrliw s.cfg imm (s.reg rs1) s.pc) rd s

/-- SRAIW, Execute (R138). -/
def exSraiw (c : Config) (imm : BitVec 12) (a pc : Word) : Executed := aluExecuted c .sraw a ((shamtOf imm).setWidth 64) pc
/-- SRAIW (R138). -/
def execSraiw (rd rs1 : Reg) (imm : BitVec 12) (s : State) : StepOutcome :=
  finish (exSraiw s.cfg imm (s.reg rs1) s.pc) rd s

/-- ADDW, Execute (R139). -/
def exAddw (c : Config) (a b pc : Word) : Executed := aluExecuted c .addw a b pc
/-- ADDW (R139). -/
def execAddw (rd rs1 rs2 : Reg) (s : State) : StepOutcome :=
  finish (exAddw s.cfg (s.reg rs1) (s.reg rs2) s.pc) rd s

/-- SUBW, Execute (R140). -/
def exSubw (c : Config) (a b pc : Word) : Executed := aluExecuted c .subw a b pc
/-- SUBW (R140). -/
def execSubw (rd rs1 rs2 : Reg) (s : State) : StepOutcome :=
  finish (exSubw s.cfg (s.reg rs1) (s.reg rs2) s.pc) rd s

/-- SLLW, Execute (R141). -/
def exSllw (c : Config) (a b pc : Word) : Executed := aluExecuted c .sllw a b pc
/-- SLLW (R141). -/
def execSllw (rd rs1 rs2 : Reg) (s : State) : StepOutcome :=
  finish (exSllw s.cfg (s.reg rs1) (s.reg rs2) s.pc) rd s

/-- SRLW, Execute (R142). -/
def exSrlw (c : Config) (a b pc : Word) : Executed := aluExecuted c .srlw a b pc
/-- SRLW (R142). -/
def execSrlw (rd rs1 rs2 : Reg) (s : State) : StepOutcome :=
  finish (exSrlw s.cfg (s.reg rs1) (s.reg rs2) s.pc) rd s

/-- SRAW, Execute (R143). -/
def exSraw (c : Config) (a b pc : Word) : Executed := aluExecuted c .sraw a b pc
/-- SRAW (R143). -/
def execSraw (rd rs1 rs2 : Reg) (s : State) : StepOutcome :=
  finish (exSraw s.cfg (s.reg rs1) (s.reg rs2) s.pc) rd s

end Sys2Proof.Machine
end

