-- ==== Sys2Proof/Machine/LoadStore.lean ====
section
/-! DEFINITION. The loads and stores (43_loads_stores.md R173-R183): for each its Execute phase, which computes the
address (R170), and its atomic meaning. -/

namespace Sys2Proof.Machine

/-- LB, Execute (R173). -/
def exLb (imm : BitVec 12) (a : Word) : Executed := .load .lb (effAddr a imm)
/-- LB (R173). -/
def execLb (rd rs1 : Reg) (imm : BitVec 12) (s : State) : StepOutcome := finish (exLb imm (s.reg rs1)) rd s

/-- LH, Execute (R174). -/
def exLh (imm : BitVec 12) (a : Word) : Executed := .load .lh (effAddr a imm)
/-- LH (R174). -/
def execLh (rd rs1 : Reg) (imm : BitVec 12) (s : State) : StepOutcome := finish (exLh imm (s.reg rs1)) rd s

/-- LW, Execute (R175). -/
def exLw (imm : BitVec 12) (a : Word) : Executed := .load .lw (effAddr a imm)
/-- LW (R175). -/
def execLw (rd rs1 : Reg) (imm : BitVec 12) (s : State) : StepOutcome := finish (exLw imm (s.reg rs1)) rd s

/-- LD, Execute (R176). -/
def exLd (imm : BitVec 12) (a : Word) : Executed := .load .ld (effAddr a imm)
/-- LD (R176). -/
def execLd (rd rs1 : Reg) (imm : BitVec 12) (s : State) : StepOutcome := finish (exLd imm (s.reg rs1)) rd s

/-- LBU, Execute (R177). -/
def exLbu (imm : BitVec 12) (a : Word) : Executed := .load .lbu (effAddr a imm)
/-- LBU (R177). -/
def execLbu (rd rs1 : Reg) (imm : BitVec 12) (s : State) : StepOutcome := finish (exLbu imm (s.reg rs1)) rd s

/-- LHU, Execute (R178). -/
def exLhu (imm : BitVec 12) (a : Word) : Executed := .load .lhu (effAddr a imm)
/-- LHU (R178). -/
def execLhu (rd rs1 : Reg) (imm : BitVec 12) (s : State) : StepOutcome := finish (exLhu imm (s.reg rs1)) rd s

/-- LWU, Execute (R179). -/
def exLwu (imm : BitVec 12) (a : Word) : Executed := .load .lwu (effAddr a imm)
/-- LWU (R179). -/
def execLwu (rd rs1 : Reg) (imm : BitVec 12) (s : State) : StepOutcome := finish (exLwu imm (s.reg rs1)) rd s

/-- SB, Execute (R180). -/
def exSb (imm : BitVec 12) (a b : Word) : Executed := .store .sb (effAddr a imm) b
/-- SB (R180). -/
def execSb (rs1 rs2 : Reg) (imm : BitVec 12) (s : State) : StepOutcome :=
  finishNoDest (exSb imm (s.reg rs1) (s.reg rs2)) s

/-- SH, Execute (R181). -/
def exSh (imm : BitVec 12) (a b : Word) : Executed := .store .sh (effAddr a imm) b
/-- SH (R181). -/
def execSh (rs1 rs2 : Reg) (imm : BitVec 12) (s : State) : StepOutcome :=
  finishNoDest (exSh imm (s.reg rs1) (s.reg rs2)) s

/-- SW, Execute (R182). -/
def exSw (imm : BitVec 12) (a b : Word) : Executed := .store .sw (effAddr a imm) b
/-- SW (R182). -/
def execSw (rs1 rs2 : Reg) (imm : BitVec 12) (s : State) : StepOutcome :=
  finishNoDest (exSw imm (s.reg rs1) (s.reg rs2)) s

/-- SD, Execute (R183). -/
def exSd (imm : BitVec 12) (a b : Word) : Executed := .store .sd (effAddr a imm) b
/-- SD (R183). -/
def execSd (rs1 rs2 : Reg) (imm : BitVec 12) (s : State) : StepOutcome :=
  finishNoDest (exSd imm (s.reg rs1) (s.reg rs2)) s

end Sys2Proof.Machine
end

