-- ==== Sys2Proof/Machine/MulDiv.lean ====
section
/-! DEFINITION. The thirteen multiply and divide instructions (42_muldiv.md R154-R166): for each its Execute phase and its
atomic meaning. DIV, REM, DIVW and REMW stop with ArithmeticFault on overflow where DIV_OVF = FAULT (R151). -/

namespace Sys2Proof.Machine

/-- MUL, Execute (R154). -/
def exMul (c : Config) (a b pc : Word) : Executed := aluExecuted c .mul a b pc
/-- MUL (R154). -/
def execMul (rd rs1 rs2 : Reg) (s : State) : StepOutcome :=
  finish (exMul s.cfg (s.reg rs1) (s.reg rs2) s.pc) rd s

/-- MULH, Execute (R155). -/
def exMulh (c : Config) (a b pc : Word) : Executed := aluExecuted c .mulh a b pc
/-- MULH (R155). -/
def execMulh (rd rs1 rs2 : Reg) (s : State) : StepOutcome :=
  finish (exMulh s.cfg (s.reg rs1) (s.reg rs2) s.pc) rd s

/-- MULHSU, Execute (R156). -/
def exMulhsu (c : Config) (a b pc : Word) : Executed := aluExecuted c .mulhsu a b pc
/-- MULHSU (R156). -/
def execMulhsu (rd rs1 rs2 : Reg) (s : State) : StepOutcome :=
  finish (exMulhsu s.cfg (s.reg rs1) (s.reg rs2) s.pc) rd s

/-- MULHU, Execute (R157). -/
def exMulhu (c : Config) (a b pc : Word) : Executed := aluExecuted c .mulhu a b pc
/-- MULHU (R157). -/
def execMulhu (rd rs1 rs2 : Reg) (s : State) : StepOutcome :=
  finish (exMulhu s.cfg (s.reg rs1) (s.reg rs2) s.pc) rd s

/-- DIV, Execute (R159). -/
def exDiv (c : Config) (a b pc : Word) : Executed := aluExecuted c .div a b pc
/-- DIV (R159). -/
def execDiv (rd rs1 rs2 : Reg) (s : State) : StepOutcome :=
  finish (exDiv s.cfg (s.reg rs1) (s.reg rs2) s.pc) rd s

/-- DIVU, Execute (R160). -/
def exDivu (c : Config) (a b pc : Word) : Executed := aluExecuted c .divu a b pc
/-- DIVU (R160). -/
def execDivu (rd rs1 rs2 : Reg) (s : State) : StepOutcome :=
  finish (exDivu s.cfg (s.reg rs1) (s.reg rs2) s.pc) rd s

/-- REM, Execute (R161). -/
def exRem (c : Config) (a b pc : Word) : Executed := aluExecuted c .rem a b pc
/-- REM (R161). -/
def execRem (rd rs1 rs2 : Reg) (s : State) : StepOutcome :=
  finish (exRem s.cfg (s.reg rs1) (s.reg rs2) s.pc) rd s

/-- REMU, Execute (R162). -/
def exRemu (c : Config) (a b pc : Word) : Executed := aluExecuted c .remu a b pc
/-- REMU (R162). -/
def execRemu (rd rs1 rs2 : Reg) (s : State) : StepOutcome :=
  finish (exRemu s.cfg (s.reg rs1) (s.reg rs2) s.pc) rd s

/-- MULW, Execute (R158). -/
def exMulw (c : Config) (a b pc : Word) : Executed := aluExecuted c .mulw a b pc
/-- MULW (R158). -/
def execMulw (rd rs1 rs2 : Reg) (s : State) : StepOutcome :=
  finish (exMulw s.cfg (s.reg rs1) (s.reg rs2) s.pc) rd s

/-- DIVW, Execute (R163). -/
def exDivw (c : Config) (a b pc : Word) : Executed := aluExecuted c .divw a b pc
/-- DIVW (R163). -/
def execDivw (rd rs1 rs2 : Reg) (s : State) : StepOutcome :=
  finish (exDivw s.cfg (s.reg rs1) (s.reg rs2) s.pc) rd s

/-- DIVUW, Execute (R164). -/
def exDivuw (c : Config) (a b pc : Word) : Executed := aluExecuted c .divuw a b pc
/-- DIVUW (R164). -/
def execDivuw (rd rs1 rs2 : Reg) (s : State) : StepOutcome :=
  finish (exDivuw s.cfg (s.reg rs1) (s.reg rs2) s.pc) rd s

/-- REMW, Execute (R165). -/
def exRemw (c : Config) (a b pc : Word) : Executed := aluExecuted c .remw a b pc
/-- REMW (R165). -/
def execRemw (rd rs1 rs2 : Reg) (s : State) : StepOutcome :=
  finish (exRemw s.cfg (s.reg rs1) (s.reg rs2) s.pc) rd s

/-- REMUW, Execute (R166). -/
def exRemuw (c : Config) (a b pc : Word) : Executed := aluExecuted c .remuw a b pc
/-- REMUW (R166). -/
def execRemuw (rd rs1 rs2 : Reg) (s : State) : StepOutcome :=
  finish (exRemuw s.cfg (s.reg rs1) (s.reg rs2) s.pc) rd s

end Sys2Proof.Machine
end

