-- ==== Sys2Proof/Machine/System.lean ====
section
/-! DEFINITION. ECALL with its nine services (45_system.md R200-R212), EBREAK (R213) and the decoder's fallback
UNIMPLEMENTED (R214). -/

namespace Sys2Proof.Machine

/-! ### The services -/

/-- The nine services (45_system.md R200). -/
inductive Service where
  | printInt
  | printChar
  | printString
  | readInt
  | readChar
  | sbrk
  | heapBaseQ
  | heapMaxQ
  | exit
deriving DecidableEq, Repr

/-- The service whose number is `num`, compared on all 64 bits (45_system.md R200, D17). -/
def serviceOf (n : ServiceNumbers) (num : Word) : Option Service :=
  if num = n.printInt then some .printInt
  else if num = n.printChar then some .printChar
  else if num = n.printString then some .printString
  else if num = n.readInt then some .readInt
  else if num = n.readChar then some .readChar
  else if num = n.sbrk then some .sbrk
  else if num = n.heapBaseQ then some .heapBaseQ
  else if num = n.heapMaxQ then some .heapMaxQ
  else if num = n.exit then some .exit
  else none

/-- How a service, or a whole ECALL, ends: it waits for the host; it stops, with the console output it has emitted; or
it is done, with its result and the state it leaves. -/
inductive ServiceResult where
  | holds
  | stops (e : StopReason) (emitted : List Byte)
  | done (res : Word) (s : State)
deriving DecidableEq, Repr

/-- The decimal digits of `n`, most significant first, before `acc`; `fuel` bounds their number. -/
def digitsOf : Nat → Nat → List Byte → List Byte
  | 0, _, acc => acc
  | fuel + 1, n, acc =>
    let acc' := BitVec.ofNat 8 (48 + n % 10) :: acc
    if n / 10 = 0 then acc' else digitsOf fuel (n / 10) acc'

/-- decimal(signed(v)): a leading '-' when negative, no padding and no line end (45_system.md R203). Twenty digits hold
every 64-bit magnitude. -/
def decimalOf (v : Word) : List Byte :=
  if v.toInt < 0 then 45#8 :: digitsOf 20 v.toInt.natAbs [] else digitsOf 20 v.toInt.natAbs []

/-- The walk of PRINT_STRING from `p` (45_system.md R205): the bytes before the first zero byte, and the stop of the
first byte that cannot be read, if that comes first. `fuel` is a bound that the walk never reaches where it exceeds
MAXADDR - p, since the byte at MAXADDR is never readable (20_memory.md R45). -/
def stringWalk (c : Config) (m : Memory) : Nat → Word → List Byte × Option StopReason
  | 0, _ => ([], none)
  | fuel + 1, p =>
    match memRead c m p 1 with
    | .error e => ([], some e)
    | .ok v =>
      if v = 0 then ([], none)
      else
        let rest := stringWalk c m fuel (p + 1)
        (v.extractLsb' 0 8 :: rest.1, rest.2)

/-- PRINT_INT (45_system.md R203). -/
def servicePrintInt (arg : Word) (s : State) : ServiceResult := .done 0 (s.emit (decimalOf arg))

/-- PRINT_CHAR (45_system.md R204). -/
def servicePrintChar (arg : Word) (s : State) : ServiceResult := .done 0 (s.emit [arg.extractLsb' 0 8])

/-- PRINT_STRING (45_system.md R205): output before a stop is kept. -/
def servicePrintString (arg : Word) (s : State) : ServiceResult :=
  let w := stringWalk s.cfg s.mem (s.cfg.maxAddr.toNat + 1) arg
  match w.2 with
  | some e => .stops e w.1
  | none => .done 0 (s.emit w.1)

/-- READ_INT (45_system.md R206): the host's value, or a hold (R202). -/
def serviceReadInt (s : State) : ServiceResult :=
  match s.input with
  | [] => .holds
  | v :: vs => .done v { s with input := vs }

/-- READ_CHAR (45_system.md R207): a byte of the host's, zero-extended, or a hold (R202). -/
def serviceReadChar (s : State) : ServiceResult :=
  match s.input with
  | [] => .holds
  | v :: vs => .done ((v.extractLsb' 0 8).setWidth 64) { s with input := vs }

/-- The pages that meet [old, new): none where new <= old (45_system.md R208; log 8). -/
def pagesToCover (c : Config) (old new : Nat) : Nat :=
  if new ≤ old then 0 else (new - 1) / pageSize c - old / pageSize c + 1

/-- SBRK (45_system.md R208), the new break computed in unbounded integers. -/
def serviceSbrk (arg : Word) (s : State) : ServiceResult :=
  let new : Int := (s.heap.toNat : Int) + arg.toInt
  if new > (s.cfg.heapMax.toNat : Int) ∨ new < (s.cfg.heapBase.toNat : Int) then
    .stops (.heapExhausted (BitVec.ofInt 64 new)) []
  else
    let t := State.allocPages (pagesToCover s.cfg s.heap.toNat new.toNat) (pageBase s.cfg s.heap.toNat) s
    .done s.heap { t with heap := BitVec.ofInt 64 new }

/-- HEAP_BASE_Q (45_system.md R209). -/
def serviceHeapBaseQ (s : State) : ServiceResult := .done s.cfg.heapBase s

/-- HEAP_MAX_Q (45_system.md R210). -/
def serviceHeapMaxQ (s : State) : ServiceResult := .done s.cfg.heapMax s

/-- EXIT (45_system.md R211) before its result commit. -/
def serviceExit (arg : Word) (s : State) : ServiceResult := .done 0 { s with exitStatus := arg }

/-- The service's own part of an ECALL (45_system.md R200). -/
def runService (v : Service) (arg : Word) (s : State) : ServiceResult :=
  match v with
  | .printInt => servicePrintInt arg s
  | .printChar => servicePrintChar arg s
  | .printString => servicePrintString arg s
  | .readInt => serviceReadInt s
  | .readChar => serviceReadChar s
  | .sbrk => serviceSbrk arg s
  | .heapBaseQ => serviceHeapBaseQ s
  | .heapMaxQ => serviceHeapMaxQ s
  | .exit => serviceExit arg s

/-- What a service keeps where its ECALL stops after it: PRINT_STRING's output, and nothing of any other service
(60_exceptions.md R232, 40_execution_step.md R104; log 14). -/
def keptOutput (v : Service) (before after : State) : List Byte :=
  if v = .printString then after.output.drop before.output.length else []

/-- The result commit of an ECALL, and FINISHED after it for EXIT (45_system.md R200, R211). If the commit stops, the ECALL
has no effect but PRINT_STRING's output (60_exceptions.md R232; log 14). -/
def commitResult (v : Service) (res : Word) (before after : State) : ServiceResult :=
  match commit before.cfg.sysResReg res after with
  | .error e => .stops e (keptOutput v before after)
  | .ok t => .done res (if v = .exit then { t with finished := true } else t)

/-- ECALL's Writeback (45_system.md R200), in both engines: dispatch on the service number, the service, the result
commit. It reads its operands here (D26). -/
def ecallEffect (s : State) : ServiceResult :=
  match serviceOf s.cfg.sysno (s.reg s.cfg.sysNumReg) with
  | none => .stops (.unknownService (s.reg s.cfg.sysNumReg)) []
  | some v =>
    match runService v (s.reg s.cfg.sysArgReg) s with
    | .holds => .holds
    | .stops e out => .stops e out
    | .done res t => commitResult v res s t

/-! ### The instructions -/

/-- ECALL (45_system.md R200). A hold leaves everything but HOLD as it was (R202). -/
def execEcall (s : State) : StepOutcome :=
  match ecallEffect s with
  | .holds => .next s.holdForInput
  | .stops e out => .next ((s.emit out).raise e s.pc)
  | .done _ t => .next (t.retire (nextPc s))

/-- EBREAK, Execute (45_system.md R213). -/
def exEbreak (pc : Word) : Executed := .stops (.breakpoint pc)
/-- EBREAK (45_system.md R213). -/
def execEbreak (s : State) : StepOutcome := finishNoDest (exEbreak s.pc) s

/-- UNIMPLEMENTED (45_system.md R214): a counted no-op. -/
def execUnimplemented (s : State) : StepOutcome := finishNoDest .nothing s

end Sys2Proof.Machine
end

