-- ==== Sys2Proof/Machine/Pipeline.lean ====
section
/-! DEFINITION. The pipelined engine (70_reset_and_hazards.md R256-R288): the five stage functions, the forwarding
multiplexer, the branch predictor, the hazard detector, the controller with PC selection, the cycle charges, and one
cycle. An instruction's Execute phase is the one its atomic meaning uses. -/

namespace Sys2Proof.Machine

/-! ### Execute by decoded instruction (R261) -/

/-- The Execute phase of an instruction from its operand values (40_execution_step.md R98, 70_reset_and_hazards.md
R261). -/
def executeInstr (c : Config) (i : Instr) (a b pc : Word) : Executed :=
  match i with
  | .lui _ imm => exLui imm
  | .auipc _ imm => exAuipc imm pc
  | .addi _ _ imm => exAddi c imm a pc
  | .slti _ _ imm => exSlti c imm a pc
  | .sltiu _ _ imm => exSltiu c imm a pc
  | .xori _ _ imm => exXori c imm a pc
  | .ori _ _ imm => exOri c imm a pc
  | .andi _ _ imm => exAndi c imm a pc
  | .slli _ _ imm => exSlli c imm a pc
  | .srli _ _ imm => exSrli c imm a pc
  | .srai _ _ imm => exSrai c imm a pc
  | .add _ _ _ => exAdd c a b pc
  | .sub _ _ _ => exSub c a b pc
  | .sll _ _ _ => exSll c a b pc
  | .slt _ _ _ => exSlt c a b pc
  | .sltu _ _ _ => exSltu c a b pc
  | .xor _ _ _ => exXor c a b pc
  | .srl _ _ _ => exSrl c a b pc
  | .sra _ _ _ => exSra c a b pc
  | .or _ _ _ => exOr c a b pc
  | .and _ _ _ => exAnd c a b pc
  | .addiw _ _ imm => exAddiw c imm a pc
  | .slliw _ _ imm => exSlliw c imm a pc
  | .srliw _ _ imm => exSrliw c imm a pc
  | .sraiw _ _ imm => exSraiw c imm a pc
  | .addw _ _ _ => exAddw c a b pc
  | .subw _ _ _ => exSubw c a b pc
  | .sllw _ _ _ => exSllw c a b pc
  | .srlw _ _ _ => exSrlw c a b pc
  | .sraw _ _ _ => exSraw c a b pc
  | .mul _ _ _ => exMul c a b pc
  | .mulh _ _ _ => exMulh c a b pc
  | .mulhsu _ _ _ => exMulhsu c a b pc
  | .mulhu _ _ _ => exMulhu c a b pc
  | .div _ _ _ => exDiv c a b pc
  | .divu _ _ _ => exDivu c a b pc
  | .rem _ _ _ => exRem c a b pc
  | .remu _ _ _ => exRemu c a b pc
  | .mulw _ _ _ => exMulw c a b pc
  | .divw _ _ _ => exDivw c a b pc
  | .divuw _ _ _ => exDivuw c a b pc
  | .remw _ _ _ => exRemw c a b pc
  | .remuw _ _ _ => exRemuw c a b pc
  | .lb _ _ imm => exLb imm a
  | .lh _ _ imm => exLh imm a
  | .lw _ _ imm => exLw imm a
  | .ld _ _ imm => exLd imm a
  | .lbu _ _ imm => exLbu imm a
  | .lhu _ _ imm => exLhu imm a
  | .lwu _ _ imm => exLwu imm a
  | .sb _ _ imm => exSb imm a b
  | .sh _ _ imm => exSh imm a b
  | .sw _ _ imm => exSw imm a b
  | .sd _ _ imm => exSd imm a b
  | .jal _ off => exJal off pc
  | .jalr _ _ imm => exJalr imm a pc
  | .beq _ _ off => exBeq off a b pc
  | .bne _ _ off => exBne off a b pc
  | .blt _ _ off => exBlt off a b pc
  | .bge _ _ off => exBge off a b pc
  | .bltu _ _ off => exBltu off a b pc
  | .bgeu _ _ off => exBgeu off a b pc
  | .ecall => .nothing
  | .ebreak => exEbreak pc

/-- Execute of a decoded record; UNIMPLEMENTED and NONE do nothing (R261). -/
def executeDecoded (c : Config) (d : Decoded) (a b pc : Word) : Executed :=
  match d with
  | .instr i => executeInstr c i a b pc
  | .unimplemented => .nothing
  | .nothing => .nothing

/-- The load of a decoded record (30_encoding.md R85). -/
def loadKindOf : Decoded → Option LoadKind
  | .instr (.lb ..) => some .lb
  | .instr (.lh ..) => some .lh
  | .instr (.lw ..) => some .lw
  | .instr (.ld ..) => some .ld
  | .instr (.lbu ..) => some .lbu
  | .instr (.lhu ..) => some .lhu
  | .instr (.lwu ..) => some .lwu
  | _ => none

/-- The store of a decoded record (30_encoding.md R85). -/
def storeKindOf : Decoded → Option StoreKind
  | .instr (.sb ..) => some .sb
  | .instr (.sh ..) => some .sh
  | .instr (.sw ..) => some .sw
  | .instr (.sd ..) => some .sd
  | _ => none

/-! ### W stage (R259) -/

/-- ICOUNT <- ICOUNT + 1 (R273). -/
def State.count (s : State) : State := { s with icount := s.icount + 1 }

/-- CYCLES <- CYCLES + n, modulo 2^64 (R272, 10_state.md R29). -/
def State.addCycles (s : State) (n : Nat) : State := { s with cycles := s.cycles + BitVec.ofNat 64 n }

/-- How the W stage ends: the whole cycle holds; it stops; the run finishes; or the cycle goes on, an ECALL having been
committed or not. -/
inductive WResult where
  | holds
  | stops (e : StopReason) (s : State)
  | finished (s : State)
  | goesOn (s : State) (ecall : Bool)
deriving DecidableEq, Repr

/-- The W stage (R259): it retires the instruction in the W latch. -/
def wStage (s : State) : WResult :=
  if s.wl.valid = false then .goesOn s false
  else
    match s.wl.exc with
    | some e => .stops e s
    | none =>
      if s.wl.d.sub.isEcall then
        match ecallEffect s with
        | .holds => .holds
        | .stops e out => .stops e (s.emit out)
        | .done _ t => if t.finished then .finished t.count else .goesOn t.count true
      else
        match s.wl.d.sub.dest with
        | none => .goesOn s.count false
        | some r =>
          match commit r s.wl.value s with
          | .error e => .stops e s
          | .ok t => .goesOn t.count false

/-! ### M stage (R260) -/

/-- What the M stage leaves: memory, and the next W latch. -/
structure MResult where
  mem : Memory
  wn  : MemoryLatch
deriving DecidableEq, Repr

/-- The M stage (R260): the data access of an untagged instruction. -/
def mStage (c : Config) (m : Memory) (l : MemoryLatch) : Except StopReason MResult :=
  if l.valid = true ∧ l.exc = none then
    match loadKindOf l.d.sub with
    | some k =>
      match memRead c m l.addr k.bytes with
      | .error e => .error e
      | .ok v => .ok { mem := m, wn := { l with value := k.extend v } }
    | none =>
      match storeKindOf l.d.sub with
      | some k =>
        match memWrite c m l.addr k.bytes l.sdata with
        | .error e => .error e
        | .ok m' => .ok { mem := m', wn := l }
      | none => .ok { mem := m, wn := l }
  else .ok { mem := m, wn := l }

/-! ### E stage (R261) -/

/-- What the E stage gives: the next M latch, and the misprediction with the corrected fetch address. -/
structure EResult where
  mn         : MemoryLatch
  mispredict : Bool
  corr       : Word
deriving DecidableEq, Repr

/-- The M latch with every result field zero, as the E stage starts it (R261). -/
def passExecute (e : ExecuteLatch) : MemoryLatch :=
  { valid := e.valid, pc := e.pc, d := e.d, value := 0, addr := 0, sdata := 0, taken := false, target := 0, exc := e.exc }

/-- The M latch that receives what Execute gave (R261); a stop is carried, not raised. -/
def latchExecuted (l : MemoryLatch) : Executed → MemoryLatch
  | .value v => { l with value := v }
  | .load _ ea => { l with addr := ea }
  | .store _ ea data => { l with addr := ea, sdata := data }
  | .jump link target => { l with value := link, taken := true, target := target }
  | .branch taken target => { l with taken := taken, target := target }
  | .stops e => { l with exc := some e }
  | .nothing => l

/-- The E stage (R261). -/
def eStage (c : Config) (e : ExecuteLatch) : EResult :=
  if e.valid = true ∧ e.exc = none then
    let mn := latchExecuted (passExecute e) (executeDecoded c e.d.sub e.a e.b e.pc)
    { mn := mn
      mispredict := e.d.sub.isBranch && (mn.taken != e.ptaken)
      corr := if mn.taken then mn.target else e.pc + 4 }
  else { mn := passExecute e, mispredict := false, corr := e.pc + 4 }

/-! ### D stage (R262, R263, R264) -/

/-- The forwarding multiplexer (R263): from E, then from M, else the register file after this cycle's commit. -/
def forward (s : State) (mn wn : MemoryLatch) (r : Reg) : Word :=
  if r = 0 then 0
  else if s.el.valid = true ∧ s.el.exc = none ∧ s.el.d.sub.dest = some r then mn.value
  else if s.ml.valid = true ∧ s.ml.exc = none ∧ s.ml.d.sub.dest = some r then wn.value
  else s.reg r

/-- An operand: the forwarded register, or 0 where the instruction has none (R262). -/
def operand (s : State) (mn wn : MemoryLatch) : Option Reg → Word
  | some r => forward s mn wn r
  | none => 0

/-- What the D stage gives: the next E latch, and JALR's redirect with its target. -/
structure DResult where
  en   : ExecuteLatch
  jalr : Bool
  jt   : Word
deriving DecidableEq, Repr

/-- JALR's target from the operand resolved in Decode (R262, R264). -/
def decodeTarget (d : Decoded) (a : Word) : Word :=
  match d with
  | .instr (.jalr _ _ imm) => jalrTarget a imm
  | _ => 0

/-- The D stage (R262); `s` is the state after this cycle's Writeback. -/
def dStage (s : State) (mn wn : MemoryLatch) : DResult :=
  if s.dl.valid = false then { en := .bubble, jalr := false, jt := 0 }
  else if s.dl.exc ≠ none then
    { en := { valid := true, pc := s.dl.pc, d := .nothing, a := 0, b := 0, ptaken := false, exc := s.dl.exc }
      jalr := false
      jt := 0 }
  else
    let d := decodeRecord s.dl.raw
    let a := operand s mn wn d.sub.src1
    let b := operand s mn wn d.sub.src2
    { en := { valid := true, pc := s.dl.pc, d := d, a := a, b := b, ptaken := s.dl.ptaken, exc := none }
      jalr := d.sub.isJalr
      jt := decodeTarget d.sub a }

/-! ### F stage and the branch predictor (R265, R266) -/

/-- What the predictor answers: the predicted direction and the next fetch address. -/
structure Prediction where
  taken : Bool
  next  : Word
deriving DecidableEq, Repr

/-- The strategy's direction for a branch that is backward or not; offset 0 is forward (R266, D28). -/
def predictTaken (bp : BranchPrediction) (back : Bool) : Bool :=
  match bp with
  | .alwaysTaken => true
  | .ftbnt => !back
  | .btfnt => back

/-- The branch predictor (R266): a pure function of the fetched word and its address. -/
def predict (bp : BranchPrediction) (pc : Word) (raw : InstWord) : Prediction :=
  let d := decode raw
  if d.isJal then { taken := true, next := jalTarget pc (fieldJ raw) }
  else if d.isBranch && predictTaken bp (raw.getLsbD 31) then
    { taken := true, next := branchTarget pc (fieldB raw) }
  else { taken := false, next := pc + 4 }

/-- What the F stage gives: the next D latch and the predicted next fetch address. -/
structure FResult where
  dn    : DecodeLatch
  pnext : Word
deriving DecidableEq, Repr

/-- The F stage (R265): a fetch fault is tagged, not raised. -/
def fStage (c : Config) (m : Memory) (f : FetchLatch) : FResult :=
  match memFetch c m f.pc with
  | .error e => { dn := { valid := true, pc := f.pc, raw := 0, ptaken := false, exc := some e }, pnext := f.pc + 4 }
  | .ok raw =>
    let p := predict c.bp f.pc raw
    { dn := { valid := true, pc := f.pc, raw := raw, ptaken := p.taken, exc := none }, pnext := p.next }

/-! ### Hazard detector (R267) -/

/-- The load-use hazard (R267). -/
def loadUse (s : State) : Bool :=
  s.el.valid && decide (s.el.exc = none) && s.el.d.sub.isLoad && s.dl.valid && decide (s.dl.exc = none) &&
    match s.el.d.sub.dest with
    | some r => (decode s.dl.raw).readsReg r
    | none => false

/-- The syscall barrier, the W term kept on purpose (R267, R288). -/
def barrier (s : State) : Bool :=
  (s.el.valid && s.el.d.sub.isEcall) || (s.ml.valid && s.ml.d.sub.isEcall) || (s.wl.valid && s.wl.d.sub.isEcall)

/-! ### Controller and PC selection (R268, R269) -/

/-- The next F, D and E latches. -/
structure NextLatches where
  f : FetchLatch
  d : DecodeLatch
  e : ExecuteLatch
deriving DecidableEq, Repr

/-- The controller (R268): squash, then stall, then JALR redirect, then normal (D56). -/
def controller (s : State) (ex : EResult) (de : DResult) (fe : FResult) : NextLatches :=
  if ex.mispredict then { f := { pc := ex.corr }, d := .bubble, e := .bubble }
  else if loadUse s || barrier s then { f := s.fl, d := s.dl, e := .bubble }
  else if de.jalr then { f := { pc := de.jt }, d := .bubble, e := de.en }
  else { f := { pc := fe.pnext }, d := fe.dn, e := de.en }

/-! ### Charges (R272) -/

/-- MEM_LAT(kind, addr, n) (R272, D47; log 9). -/
def memLatency (c : Config) (k : AccessKind) (a : Word) (n : Nat) : Nat :=
  match c.memLat with
  | .zero => 0
  | .external => Config.externalLatency k a n

/-- MUL_LAT or DIV_LAT for the instruction the E stage executed (R272). -/
def executeCharge (c : Config) (e : ExecuteLatch) (mn : MemoryLatch) : Nat :=
  if e.valid = true ∧ e.exc = none then
    if e.d.sub.isMulOp then c.mulLat
    else if e.d.sub.isDivOp ∧ mn.exc = none then c.divLat
    else 0
  else 0

/-- MEM_LAT for the access the M stage performed, if any (R272). -/
def memoryCharge (c : Config) (l : MemoryLatch) : Nat :=
  if l.valid = true ∧ l.exc = none then
    match loadKindOf l.d.sub with
    | some k => memLatency c .read l.addr k.bytes
    | none =>
      match storeKindOf l.d.sub with
      | some k => memLatency c .write l.addr k.bytes
      | none => 0
  else 0

/-- MEM_LAT for the F stage's fetch, if it passed its check (R272). -/
def fetchCharge (c : Config) (f : FetchLatch) (dn : DecodeLatch) : Nat :=
  if dn.exc = none then memLatency c .fetch f.pc 4 else 0

/-! ### One cycle (R258) -/

/-- The rest of a cycle whose W and M stages went on: E, D and F, hazards, control, the tick and its charge (R258,
R272). `u` is the state after W and M, with the latches of the start of the cycle. -/
def tick (ecall : Bool) (wn : MemoryLatch) (u : State) : State :=
  let ex := eStage u.cfg u.el
  let de := dStage u ex.mn wn
  let fe := fStage u.cfg u.mem u.fl
  let nx := controller u ex de fe
  let charge := 1 + executeCharge u.cfg u.el ex.mn + (if ecall then u.cfg.sysLat else 0) + memoryCharge u.cfg u.ml +
    fetchCharge u.cfg u.fl fe.dn
  ({ u with fl := nx.f, dl := nx.d, el := nx.e, ml := ex.mn, wl := wn }).addCycles charge

/-- One cycle (R258), the check point apart. A stop in W or M, a hold and EXIT end it before the tick (R272, R275,
R276). -/
def cycle (s : State) : StepOutcome :=
  match wStage s with
  | .holds => .next s.holdForInput
  | .stops e t => .next ((t.raise e s.wl.pc).addCycles 1)
  | .finished t => .next (t.addCycles (1 + s.cfg.sysLat))
  | .goesOn t ecall =>
    match mStage t.cfg t.mem t.ml with
    | .error e => .next ((t.raise e s.ml.pc).addCycles 1)
    | .ok r => .next (tick ecall r.wn (t.setMem r.mem))

end Sys2Proof.Machine
end

