-- ==== Sys2Proof/Machine/Engine.lean ====
section
/-! DEFINITION. The atomic step (40_execution_step.md R95), and one step of the run loop in either mode (R102,
70_reset_and_hazards.md R271): nothing after the run has ended or while the core holds, a pause at the check point, else
one atomic step or one cycle. -/

namespace Sys2Proof.Machine

/-- Execute, Memory and Writeback of a decoded word in atomic mode (40_execution_step.md R95). -/
def execDecoded (d : Decoded) (s : State) : StepOutcome :=
  match d with
  | .instr i => exec i s
  | .unimplemented => execUnimplemented s
  | .nothing => execUnimplemented s

/-- One atomic step (40_execution_step.md R95, R96): a fetch that stops leaves pc where it was. -/
def atomicStep (s : State) : StepOutcome :=
  match memFetch s.cfg s.mem s.pc with
  | .error e => .next (s.raise e s.pc)
  | .ok w => execDecoded (decode w) s

/-- One step of the engine of the run's mode (00_scope.md R8). -/
def engineStep (s : State) : StepOutcome :=
  match s.cfg.mode with
  | .atomic => atomicStep s
  | .pipelined => cycle s

/-- A step that has been performed ends the resumption of a pause (40_execution_step.md R103). -/
def afterStep (o : StepOutcome) : StepOutcome :=
  match o with
  | .next t => .next t.endResume
  | .fault e => .fault e
  | .refused r => .refused r

/-- One step: after the end of the run and in a hold nothing happens (40_execution_step.md R102, 60_exceptions.md R239), no
pause either (log 20); at the check point the run pauses once (R103, R245; log 12); else the engine steps. -/
def stepOnce (s : State) : StepOutcome :=
  if s.ended || s.hold then .next s
  else if s.atCheckPoint && !s.resuming then .next s.pause
  else afterStep (engineStep s)

end Sys2Proof.Machine
end

