-- ==== Sys2Proof/Machine/Step.lean ====
section
/-! DEFINITION. One step of the machine, and the state in which the next step fetches a given instruction word. -/

namespace Sys2Proof.Machine

/-- One step: one instruction in atomic mode, one cycle in pipelined mode (`stepOnce`). -/
def step (s : State) : Host.Outcome State Fault Refusal := stepOnce s

/-- The state `s` with an instruction word of `nbits` bits, the bits above them zero, stored where the next step
fetches, its page present and executable (log 10). -/
def State.withFetchWord (s : State) (nbits w : Nat) : State := s.placeWord (w % 2 ^ nbits)

end Sys2Proof.Machine
end

