-- ==== Sys2Proof/Machine/Run.lean ====
section
/-! DEFINITION. The host's side of the core: launch (70_reset_and_hazards.md R250-R254), the run loop with its step
budget (40_execution_step.md R102, 70_reset_and_hazards.md R271), the report (60_exceptions.md R234) and inspection
(40_execution_step.md R105). -/

namespace Sys2Proof.Machine

/-! ### Launch -/

/-- The nine service numbers are pairwise distinct (92_eei_decisions.md D17). -/
def sysnoInjective (n : ServiceNumbers) : Bool :=
  decide [n.printInt, n.printChar, n.printString, n.readInt, n.readChar, n.sbrk, n.heapBaseQ, n.heapMaxQ, n.exit].Nodup

/-- The premises of a launch on its parameters: 00_scope.md R10; PAGE a power of two that is a multiple of 4
(20_memory.md R48) and at most half the address space; SYSNO injective (D17). -/
def configOk (c : Config) : Bool :=
  decide (c.heapBase ≤ c.heapMax) && decide (c.heapMax ≤ c.stackTop) && decide (c.stackTop ≤ c.maxAddr) &&
    decide (c.entry.toNat % 4 = 0) && decide (2 ≤ c.pageBits) && decide (c.pageBits ≤ 63) && sysnoInjective c.sysno

/-- A launch (70_reset_and_hazards.md R250-R254): the host delivers the image's pages, each below MAXADDR (R252), the
configuration, its breakpoint table and the register draws; a launch outside the premises does not happen. -/
def launch (c : Config) (image : Memory) (bps : List Breakpoint) (draw : Vector Word 32) : StepOutcome :=
  if configOk c && image.wf c then .next (State.initial c image bps draw) else .refused .launchRejected

/-- Program reset (70_reset_and_hazards.md R250, R251): a new image and new draws; of the earlier run only the
configuration and the host's breakpoint table survive. -/
def State.relaunch (s : State) (image : Memory) (draw : Vector Word 32) : StepOutcome :=
  launch s.cfg image s.breakpoints draw

/-! ### Run loop -/

/-- What a call of the run loop returns (40_execution_step.md R102); `fuelOut` is the model's own, for a run longer than
its bound on steps. -/
inductive RunResult where
  | paused
  | held
  | finished
  | stopped
  | budget
  | fuelOut
deriving DecidableEq, Repr

/-- The answer of a run loop that has ended (40_execution_step.md R102). -/
def endResult (s : State) : RunResult :=
  if s.finished then .finished else if s.stop.isSome then .stopped else .budget

/-- The budget after a step from `s` to `t`: it counts committed instructions (60_exceptions.md R246). -/
def spend (n : Option Nat) (s t : State) : Option Nat :=
  match n with
  | none => none
  | some k => if t.icount = s.icount then some k else some (k - 1)

/-- run(N) in either mode (40_execution_step.md R102, 70_reset_and_hazards.md R271), N unbounded where `n` is none;
`fuel` bounds the steps (log 16). DESIGN CHOICE (log 20), safe: a call made while HOLD = 1 answers HELD and does nothing,
also where an enabled breakpoint not yet paused for is at the check point. R102's loop takes the check point first and has no
HOLD test at its entry, R95 lets no step begin while HOLD = 1, and the spec does not say which answer the call gives. -/
def run : Nat → Option Nat → State → RunResult × State
  | 0, _, s => (.fuelOut, s)
  | fuel + 1, n, s =>
    if n = some 0 || s.ended then (endResult s, s)
    else if s.hold then (.held, s)
    else if s.atCheckPoint && !s.resuming then (.paused, s.pause)
    else
      match step s with
      | .next t => if t.hold then (.held, t) else run fuel (spend n s t) t
      | .fault _ => (.stopped, s)
      | .refused _ => (.stopped, s)

/-! ### Report and inspection -/

/-- The report at the end of a run (60_exceptions.md R234); CYCLES in pipelined mode only. -/
structure Report where
  exitStatus : Option Word
  stopCode   : Option Nat
  stop       : Option Stop
  icount     : Word
  cycles     : Option Word
deriving DecidableEq, Repr

/-- The report of a state (60_exceptions.md R228, R234). -/
def State.report (s : State) : Report where
  exitStatus := if s.finished then some s.exitStatus else none
  stopCode := s.stop.map fun t => t.reason.code
  stop := s.stop
  icount := s.icount
  cycles := if s.cfg.mode = .pipelined then some s.cycles else none

/-- The architectural pc (10_state.md R23, R24): after a stop the stopping instruction's address (60_exceptions.md
R228); in pipelined mode that of the oldest valid instruction not yet committed, or the F latch's (70_reset_and_hazards.md
R276: the EXIT in W has committed). -/
def State.archPc (s : State) : Word :=
  match s.stop, s.cfg.mode with
  | some t, _ => t.instPc
  | none, .atomic => s.pc
  | none, .pipelined =>
    if s.wl.valid && !s.finished then s.wl.pc
    else if s.ml.valid then s.ml.pc
    else if s.el.valid then s.el.pc
    else if s.dl.valid then s.dl.pc
    else s.fl.pc

/-- Inspection of a byte by address (40_execution_step.md R105): none where the page is absent. A byte at or above MAXADDR
in a page whose base is below it is reported (DESIGN CHOICE, log 21). -/
def State.inspectByte (s : State) (a : Word) : Option Byte := byteAt s.cfg s.mem a.toNat

/-- Inspection of a page's permission bits W, X (40_execution_step.md R105; log 21). -/
def State.inspectPage (s : State) (a : Word) : Option (Bool × Bool) :=
  (walk s.cfg s.mem a.toNat).map fun p => (p.writable, p.executable)

end Sys2Proof.Machine
end

