-- ==== Sys2Proof/Safety.lean ====
section
/-! DEFINITION. The terms statements are made in: which accesses and commits are allowed, what a completed instruction
changes and leaves unchanged, the stopped state, when a step is performed, what two runs share, and the invariants of
the machine. -/

namespace Sys2Proof.Machine

/-! ### Conditions on a state -/

/-- The commit of `v` to `rd` raises no stop (40_execution_step.md R99): only x2 is checked. -/
def commitAllowed (s : State) (rd : Reg) (v : Word) : Bool :=
  rd != 2#5 || (decide (s.cfg.heapMax.toNat ≤ v.toNat) && decide (v.toNat ≤ s.cfg.maxAddr.toNat))

/-- One byte may be read: below MAXADDR and present (20_memory.md R45). -/
def readableByte (s : State) (a : Nat) : Bool := decide (a < s.cfg.maxAddr.toNat) && (walk s.cfg s.mem a).isSome

/-- One byte may be written: below MAXADDR, present and in a writable page (20_memory.md R45). -/
def writableByte (s : State) (a : Nat) : Bool :=
  decide (a < s.cfg.maxAddr.toNat) &&
    match walk s.cfg s.mem a with
    | some p => p.writable
    | none => false

/-- One byte may be fetched: below MAXADDR, present and in an executable page (20_memory.md R45). -/
def fetchableByte (c : Config) (m : Memory) (a : Nat) : Bool :=
  decide (a < c.maxAddr.toNat) &&
    match walk c m a with
    | some p => p.executable
    | none => false

/-- The `n` bytes from address `a` may be read, counted without wrapping (20_memory.md R45). -/
def readable (s : State) (a n : Nat) : Bool := (List.range n).all fun k => readableByte s (a + k)

/-- The `n` bytes from address `a` may be written (20_memory.md R45). -/
def writable (s : State) (a n : Nat) : Bool := (List.range n).all fun k => writableByte s (a + k)

/-- The byte at address `a`, 0 where the page is absent. -/
def loadedByte (s : State) (a : Nat) : Byte := (byteAt s.cfg s.mem a).getD 0

/-- A signed division of `a` by `b` stops: DIV_OVF = FAULT and the quotient overflows (42_muldiv.md R151). -/
def divStops (s : State) (a b : Word) : Bool :=
  decide (s.cfg.divOvf = .fault) && a == 0x8000000000000000#64 && b == 0xFFFFFFFFFFFFFFFF#64

/-- A signed word division stops (42_muldiv.md R151). -/
def divStopsWord (s : State) (a b : Word) : Bool :=
  decide (s.cfg.divOvf = .fault) && a.setWidth 32 == 0x80000000#32 && b.setWidth 32 == 0xFFFFFFFF#32

/-- The next step is performed: the run has not ended, does not hold and does not pause (40_execution_step.md R95, R102,
R103). -/
def State.runs (s : State) : Bool := !s.ended && !s.hold && !(s.atCheckPoint && !s.resuming)

/-- In atomic mode the next step fetches the word `w`. -/
def State.fetches (s : State) (w : InstWord) : Prop :=
  s.cfg.mode = .atomic ∧ s.runs = true ∧ memFetch s.cfg s.mem s.pc = .ok w

/-- A pipelined cycle from `s` completes its tick and leaves `t` (70_reset_and_hazards.md R258, R272). -/
def State.ticks (s t : State) : Prop :=
  s.cfg.mode = .pipelined ∧ s.runs = true ∧ step s = .next t ∧ t.hold = false ∧ t.ended = false

/-- `n` steps lead from `s` to `t`. -/
def stepsTo : Nat → State → State → Prop
  | 0, s, t => t = s
  | n + 1, s, t => ∃ u, step s = .next u ∧ stepsTo n u t

/-- What every call of the run loop that answers `r` and leaves `t` has done, whatever its budget (40_execution_step.md R102):
it took steps of the machine, all of its bound `fuel` where that ran out (log 16), and `t` is what the answer says. -/
structure RunAnswered (fuel : Nat) (s t : State) (r : RunResult) : Prop where
  steps    : ∃ j, j ≤ fuel ∧ stepsTo j s t ∧ (r = .fuelOut → j = fuel)
  ended    : s.ended = true → t = s
  finished : r = .finished → t.finished = true
  stopped  : r = .stopped → t.finished = false ∧ t.stop.isSome = true
  held     : r = .held → t.hold = true
  paused   : r = .paused → t.resuming = true ∧ t.atCheckPoint = true

/-- The service `num` is asked for, and service numbers are distinct (45_system.md R200, D17). -/
def State.asksFor (s : State) (num : Word) : Prop :=
  sysnoInjective s.cfg.sysno = true ∧ s.reg s.cfg.sysNumReg = num

/-! ### The cases of the controller (70_reset_and_hazards.md R268) -/

/-- The branch in E, whose outcome the cycle leaves in the M latch of `t`, was predicted wrong (R261). -/
def State.squashes (s t : State) : Prop :=
  s.el.valid = true ∧ s.el.exc = none ∧ s.el.d.sub.isBranch = true ∧ t.ml.taken ≠ s.el.ptaken

/-- The instruction in D reads the register the load in E writes (R267). -/
def State.loadUseHazard (s : State) : Prop :=
  ∃ r, s.el.valid = true ∧ s.el.exc = none ∧ s.el.d.sub.isLoad = true ∧ s.el.d.sub.dest = some r ∧
    s.dl.valid = true ∧ s.dl.exc = none ∧ (decode s.dl.raw).readsReg r = true

/-- An ECALL is in E, M or W (R267). -/
def State.syscallBarrier (s : State) : Prop :=
  (s.el.valid = true ∧ s.el.d.sub = .instr .ecall) ∨ (s.ml.valid = true ∧ s.ml.d.sub = .instr .ecall) ∨
    (s.wl.valid = true ∧ s.wl.d.sub = .instr .ecall)

/-- A JALR is in D (R264). -/
def State.jalrInDecode (s : State) : Prop :=
  s.dl.valid = true ∧ s.dl.exc = none ∧ (decode s.dl.raw).isJalr = true

/-- A cycle from `s` ticks to `t` in the normal case: no squash, no stall, no JALR redirect. -/
def State.normalCycle (s t : State) : Prop :=
  s.ticks t ∧ ¬s.squashes t ∧ ¬s.loadUseHazard ∧ ¬s.syscallBarrier ∧ ¬s.jalrInDecode

/-! ### What Execute gives, written from the rules (70_reset_and_hazards.md R261) -/

/-- The six branches with their conditions on the operand values (44_control.md R191-R196). -/
def branchConditions (rs1 rs2 : Reg) (off : BitVec 13) (a b : Word) : List (Instr × Bool) :=
  [(.beq rs1 rs2 off, a == b), (.bne rs1 rs2 off, a != b), (.blt rs1 rs2 off, a.slt b), (.bge rs1 rs2 off, !a.slt b),
    (.bltu rs1 rs2 off, a.ult b), (.bgeu rs1 rs2 off, !a.ult b)]

/-- A word shift by `n` shifts everything out (41_integer.md R112). -/
def shiftsOut (c : Config) (n : Nat) : Bool := decide (c.wshiftWide = .full) && decide (32 ≤ n % 64)

/-- The result of SLLW of `a` by `n` (41_integer.md R112, R136, R141). -/
def sllwResult (c : Config) (a : Word) (n : Nat) : Word :=
  if shiftsOut c n then 0 else (a.setWidth 32 <<< (n % 32)).signExtend 64

/-- The result of SRLW of `a` by `n` (41_integer.md R112, R137, R142). -/
def srlwResult (c : Config) (a : Word) (n : Nat) : Word :=
  if shiftsOut c n then 0 else (a.setWidth 32 >>> (n % 32)).signExtend 64

/-- The result of SRAW of `a` by `n` (41_integer.md R112, R138, R143). -/
def srawResult (c : Config) (a : Word) (n : Nat) : Word :=
  if shiftsOut c n then if a.getLsbD 31 then 0xFFFFFFFFFFFFFFFF else 0
  else ((a.setWidth 32).sshiftRight (n % 32)).signExtend 64

/-- The result of an instruction of 41_integer.md or 42_muldiv.md from its operand values, its immediate and its address
(R114-R143, R150-R166); none for every other instruction. -/
def resultOf (c : Config) (i : Instr) (a b pc : Word) : Option Word :=
  let a32 := a.setWidth 32
  let b32 := b.setWidth 32
  match i with
  | .lui _ u => some ((u ++ 0#12 : BitVec 32).signExtend 64)
  | .auipc _ u => some (pc + (u ++ 0#12 : BitVec 32).signExtend 64)
  | .addi _ _ imm => some (a + imm.signExtend 64)
  | .slti _ _ imm => some (if a.slt (imm.signExtend 64) then 1 else 0)
  | .sltiu _ _ imm => some (if a.ult (imm.signExtend 64) then 1 else 0)
  | .xori _ _ imm => some (a ^^^ imm.signExtend 64)
  | .ori _ _ imm => some (a ||| imm.signExtend 64)
  | .andi _ _ imm => some (a &&& imm.signExtend 64)
  | .slli _ _ imm => some (a <<< (imm.toNat % 64))
  | .srli _ _ imm => some (a >>> (imm.toNat % 64))
  | .srai _ _ imm => some (a.sshiftRight (imm.toNat % 64))
  | .add _ _ _ => some (a + b)
  | .sub _ _ _ => some (a - b)
  | .sll _ _ _ => some (a <<< (b.toNat % 64))
  | .slt _ _ _ => some (if a.slt b then 1 else 0)
  | .sltu _ _ _ => some (if a.ult b then 1 else 0)
  | .xor _ _ _ => some (a ^^^ b)
  | .srl _ _ _ => some (a >>> (b.toNat % 64))
  | .sra _ _ _ => some (a.sshiftRight (b.toNat % 64))
  | .or _ _ _ => some (a ||| b)
  | .and _ _ _ => some (a &&& b)
  | .addiw _ _ imm => some ((a32 + imm.signExtend 32).signExtend 64)
  | .slliw _ _ imm => some (sllwResult c a imm.toNat)
  | .srliw _ _ imm => some (srlwResult c a imm.toNat)
  | .sraiw _ _ imm => some (srawResult c a imm.toNat)
  | .addw _ _ _ => some ((a32 + b32).signExtend 64)
  | .subw _ _ _ => some ((a32 - b32).signExtend 64)
  | .sllw _ _ _ => some (sllwResult c a b.toNat)
  | .srlw _ _ _ => some (srlwResult c a b.toNat)
  | .sraw _ _ _ => some (srawResult c a b.toNat)
  | .mul _ _ _ => some (a * b)
  | .mulh _ _ _ => some ((a.signExtend 128 * b.signExtend 128).extractLsb' 64 64)
  | .mulhsu _ _ _ => some ((a.signExtend 128 * b.setWidth 128).extractLsb' 64 64)
  | .mulhu _ _ _ => some ((a.setWidth 128 * b.setWidth 128).extractLsb' 64 64)
  | .mulw _ _ _ => some ((a32 * b32).signExtend 64)
  | .div _ _ _ => some (if b = 0 then 0xFFFFFFFFFFFFFFFF else a.sdiv b)
  | .divu _ _ _ => some (if b = 0 then 0xFFFFFFFFFFFFFFFF else a / b)
  | .rem _ _ _ => some (if b = 0 then a else a.srem b)
  | .remu _ _ _ => some (if b = 0 then a else a % b)
  | .divw _ _ _ => some (if b32 = 0 then 0xFFFFFFFFFFFFFFFF else (a32.sdiv b32).signExtend 64)
  | .divuw _ _ _ => some (if b32 = 0 then 0xFFFFFFFFFFFFFFFF else (a32 / b32).signExtend 64)
  | .remw _ _ _ => some (if b32 = 0 then a32.signExtend 64 else (a32.srem b32).signExtend 64)
  | .remuw _ _ _ => some (if b32 = 0 then a32.signExtend 64 else (a32 % b32).signExtend 64)
  | _ => none

/-- Execute of `i` raises ArithmeticFault (42_muldiv.md R151). -/
def executeFaults (s : State) (i : Instr) (a b : Word) : Bool :=
  match i with
  | .div _ _ _ | .rem _ _ _ => divStops s a b
  | .divw _ _ _ | .remw _ _ _ => divStopsWord s a b
  | _ => false

/-- The latch E hands to M, every result field zero (70_reset_and_hazards.md R261). -/
def emptyResult (e : ExecuteLatch) : MemoryLatch :=
  { valid := e.valid, pc := e.pc, d := e.d, value := 0, addr := 0, sdata := 0, taken := false, target := 0, exc := e.exc }

/-- The whole M latch that the E stage of a cycle from `s` leaves in `t`, by the kind of the instruction in E
(70_reset_and_hazards.md R261). -/
structure ExecuteHandsOn (s t : State) : Prop where
  idle     : s.el.valid = false ∨ s.el.exc ≠ none → t.ml = emptyResult s.el
  quiet    : s.el.d.sub = .instr .ecall ∨ s.el.d.sub = .unimplemented ∨ s.el.d.sub = .nothing → t.ml = emptyResult s.el
  results  : s.el.valid = true → s.el.exc = none → ∀ i v, s.el.d.sub = .instr i →
    resultOf s.cfg i s.el.a s.el.b s.el.pc = some v →
    t.ml = if executeFaults s i s.el.a s.el.b then { emptyResult s.el with exc := some (.arithmeticFault s.el.pc) }
      else { emptyResult s.el with value := v }
  jal      : s.el.valid = true → s.el.exc = none → ∀ rd off, s.el.d.sub = .instr (.jal rd off) →
    t.ml = { emptyResult s.el with value := s.el.pc + 4, taken := true, target := s.el.pc + off.signExtend 64 }
  jalr     : s.el.valid = true → s.el.exc = none → ∀ rd rs1 imm, s.el.d.sub = .instr (.jalr rd rs1 imm) →
    t.ml = { emptyResult s.el with
      value := s.el.pc + 4, taken := true, target := (s.el.a + imm.signExtend 64) &&& 0xFFFFFFFFFFFFFFFE }
  branches : s.el.valid = true → s.el.exc = none → ∀ rs1 rs2 off, ∀ p ∈ branchConditions rs1 rs2 off s.el.a s.el.b,
    s.el.d.sub = .instr p.1 →
    t.ml = { emptyResult s.el with taken := p.2, target := s.el.pc + off.signExtend 64 }
  loads    : s.el.valid = true → s.el.exc = none → ∀ rd rs1 imm, ∀ i ∈ [Instr.lb rd rs1 imm, .lh rd rs1 imm, .lw rd rs1 imm,
      .ld rd rs1 imm, .lbu rd rs1 imm, .lhu rd rs1 imm, .lwu rd rs1 imm], s.el.d.sub = .instr i →
    t.ml = { emptyResult s.el with addr := s.el.a + imm.signExtend 64 }
  stores   : s.el.valid = true → s.el.exc = none → ∀ rs1 rs2 imm, ∀ i ∈ [Instr.sb rs1 rs2 imm, .sh rs1 rs2 imm,
      .sw rs1 rs2 imm, .sd rs1 rs2 imm], s.el.d.sub = .instr i →
    t.ml = { emptyResult s.el with addr := s.el.a + imm.signExtend 64, sdata := s.el.b }
  ebreak   : s.el.valid = true → s.el.exc = none → s.el.d.sub = .instr .ebreak →
    t.ml = { emptyResult s.el with exc := some (.breakpoint s.el.pc) }

/-- The whole W latch that the M stage of a cycle from `s` leaves in `t`, and the memory, from that which Writeback left
(70_reset_and_hazards.md R260). A load's value is of the bytes at its address, all readable. -/
structure MemoryHandsOn (s t : State) : Prop where
  passes : s.ml.valid = false ∨ s.ml.exc ≠ none ∨ s.ml.d.sub.isLoad = false → t.wl = s.ml
  loads  : s.ml.valid = true → s.ml.exc = none → ∀ rd rs1 imm,
    let a := s.ml.addr.toNat
    let b (k : Nat) : Byte := loadedByte t (a + k)
    let gives (i : Instr) (n : Nat) (v : Word) : Prop :=
      s.ml.d.sub = .instr i → readable t a n = true ∧ t.wl = { s.ml with value := v }
    gives (.lb rd rs1 imm) 1 ((b 0).signExtend 64) ∧ gives (.lbu rd rs1 imm) 1 ((b 0).setWidth 64) ∧
    gives (.lh rd rs1 imm) 2 ((b 1 ++ b 0).signExtend 64) ∧ gives (.lhu rd rs1 imm) 2 ((b 1 ++ b 0).setWidth 64) ∧
    gives (.lw rd rs1 imm) 4 ((b 3 ++ b 2 ++ b 1 ++ b 0).signExtend 64) ∧
    gives (.lwu rd rs1 imm) 4 ((b 3 ++ b 2 ++ b 1 ++ b 0).setWidth 64) ∧
    gives (.ld rd rs1 imm) 8 (b 7 ++ b 6 ++ b 5 ++ b 4 ++ b 3 ++ b 2 ++ b 1 ++ b 0)
  stores : ∀ u ecall, wStage s = .goesOn u ecall → s.ml.valid = true → s.ml.exc = none →
    ∀ k, storeKindOf s.ml.d.sub = some k → memWrite s.cfg u.mem s.ml.addr k.bytes s.ml.sdata = .ok t.mem
  keeps  : ∀ u ecall, wStage s = .goesOn u ecall →
    s.ml.valid = false ∨ s.ml.exc ≠ none ∨ storeKindOf s.ml.d.sub = none → t.mem = u.mem

/-! ### What an instruction changes -/

/-- The stop `e` of the instruction at the pc: STOP and nothing else (60_exceptions.md R228, R232). -/
def stopped (s : State) (e : StopReason) : State := { s with stop := some { reason := e, instPc := s.pc } }

/-- What no instruction changes: the configuration, CYCLES, the host's breakpoint table and its pause, the latches. -/
structure Untouched (s t : State) : Prop where
  cfg         : t.cfg = s.cfg
  cycles      : t.cycles = s.cycles
  breakpoints : t.breakpoints = s.breakpoints
  resuming    : t.resuming = s.resuming
  fl          : t.fl = s.fl
  dl          : t.dl = s.dl
  el          : t.el = s.el
  ml          : t.ml = s.ml
  wl          : t.wl = s.wl

/-- What only ECALL and stops change (10_state.md R29): HEAP, FINISHED, EXIT_STATUS, STOP, HOLD and the two console
streams. -/
structure EngineKept (s t : State) : Prop where
  heap       : t.heap = s.heap
  finished   : t.finished = s.finished
  exitStatus : t.exitStatus = s.exitStatus
  stop       : t.stop = s.stop
  hold       : t.hold = s.hold
  output     : t.output = s.output
  input      : t.input = s.input

/-- The registers after the commit of `v` to `rd`: x0 discards it, every other register is unchanged (10_state.md R20,
40_execution_step.md R99). -/
structure RegsCommitted (s : State) (rd : Reg) (v : Word) (t : State) : Prop where
  dest   : t.reg rd = if rd = 0 then 0 else v
  others : ∀ r, r ≠ rd → t.reg r = s.reg r

/-- Memory after the commit of `v` to `rd` (40_execution_step.md R99, 20_memory.md R49): unchanged unless `rd` is x2 and the
page of `v` was absent and lies below MAXADDR; then every byte outside that page reads as before, no present page changes,
and the page is there, writable and not executable, all zero under NEW_PAGE_FILL = ZERO. -/
structure PagesCommitted (s : State) (rd : Reg) (v : Word) (t : State) : Prop where
  unchanged : rd ≠ 2#5 → t.mem = s.mem ∧ t.draws = s.draws
  nothing   : s.cfg.maxAddr.toNat ≤ pageBase s.cfg v.toNat ∨ (walk s.cfg s.mem v.toNat).isSome = true →
    t.mem = s.mem ∧ t.draws = s.draws
  bytes     : ∀ a, (rd ≠ 2#5 ∨ pageBase s.cfg a ≠ pageBase s.cfg v.toNat) →
    byteAt t.cfg t.mem a = byteAt s.cfg s.mem a
  present   : ∀ a p, walk s.cfg s.mem a = some p →
    walk t.cfg t.mem a = some p ∧ byteAt t.cfg t.mem a = byteAt s.cfg s.mem a
  created   : rd = 2#5 → walk s.cfg s.mem v.toNat = none → pageBase s.cfg v.toNat < s.cfg.maxAddr.toNat →
    ∃ p, walk t.cfg t.mem v.toNat = some p ∧ p.writable = true ∧ p.executable = false
  zeroed    : rd = 2#5 → walk s.cfg s.mem v.toNat = none → pageBase s.cfg v.toNat < s.cfg.maxAddr.toNat →
    s.cfg.newPageFill = .zero → s.mem.wf s.cfg = true →
    ∀ a, pageBase s.cfg a = pageBase s.cfg v.toNat → byteAt t.cfg t.mem a = some 0

/-- The pc goes to `npc` and the instruction is counted (40_execution_step.md R100, R101). -/
structure Counted (s : State) (npc : Word) (t : State) : Prop where
  pc     : t.pc = npc
  icount : t.icount = s.icount + 1

/-- The whole effect of an instruction that commits `v` to `rd` and continues at `npc`. -/
structure CommittedTo (s : State) (rd : Reg) (v npc : Word) (t : State) : Prop where
  regs      : RegsCommitted s rd v t
  pages     : PagesCommitted s rd v t
  counted   : Counted s npc t
  engine    : EngineKept s t
  untouched : Untouched s t

/-- Instruction `i` commits `v` to `rd` and continues at `npc`; and if the commit breaks the stack rule, it stops with
StackExhausted and no other effect (40_execution_step.md R99, R104). -/
def ResultsAt (s : State) (i : Instr) (rd : Reg) (v npc : Word) : Prop :=
  (commitAllowed s rd v = true → ∃ t, exec i s = .next t ∧ CommittedTo s rd v npc t) ∧
  (commitAllowed s rd v = false → exec i s = .next (stopped s (.stackExhausted v)))

/-- Instruction `i` commits `v` to `rd` and continues at the next instruction. -/
def Results (s : State) (i : Instr) (rd : Reg) (v : Word) : Prop := ResultsAt s i rd v (s.pc + 4)

/-- The whole effect of a store of the low `n` bytes of `v` at address `a` (43_loads_stores.md R172). -/
structure StoredTo (s : State) (a n : Nat) (v : Word) (t : State) : Prop where
  stored    : ∀ k, k < n → byteAt t.cfg t.mem (a + k) = some (v.extractLsb' (8 * k) 8)
  elsewhere : ∀ b, (∀ k, k < n → b ≠ a + k) → byteAt t.cfg t.mem b = byteAt s.cfg s.mem b
  pages     : t.mem.pages = s.mem.pages ∧ t.draws = s.draws
  regs      : ∀ r, t.reg r = s.reg r
  counted   : Counted s (s.pc + 4) t
  engine    : EngineKept s t
  untouched : Untouched s t

/-- What a run shows apart from timing (70_reset_and_hazards.md R279): registers, memory, engine status registers but
CYCLES, and the console streams. -/
structure SameArchitecture (s t : State) : Prop where
  regs   : ∀ r, t.reg r = s.reg r
  mem    : t.mem = s.mem
  draws  : t.draws = s.draws
  icount : t.icount = s.icount
  engine : EngineKept s t

/-! ### Invariants -/

/-- The page table is in its canonical form (log 5). -/
def State.memoryInv (s : State) : Bool := s.mem.wf s.cfg

/-- HEAP stays between HEAP_BASE and HEAP_MAX (45_system.md R208). -/
def State.heapInv (s : State) : Bool :=
  decide (s.cfg.heapBase.toNat ≤ s.heap.toNat) && decide (s.heap.toNat ≤ s.cfg.heapMax.toNat)

/-- The stack pointer stays between HEAP_MAX and MAXADDR (40_execution_step.md R99). -/
def State.stackInv (s : State) : Bool :=
  decide (s.cfg.heapMax.toNat ≤ (s.reg 2#5).toNat) && decide ((s.reg 2#5).toNat ≤ s.cfg.maxAddr.toNat)

/-- The stored slot of x0 is 0 (10_state.md R20). -/
def State.zeroInv (s : State) : Bool := s.regs.get 0 == 0

/-- The draw numbers of the drawn pages of a page list. -/
def drawNumbers : List Page → List Nat
  | [] => []
  | p :: ps =>
    match p.fill with
    | .zero => drawNumbers ps
    | .drawn n => n :: drawNumbers ps

/-- Every drawn page has a draw of its own, below the counter (20_memory.md R49; log 4). -/
def State.drawsInv (s : State) : Bool :=
  decide (drawNumbers s.mem.pages).Nodup && (drawNumbers s.mem.pages).all fun n => decide (n < s.draws)

/-- The syscall barrier (70_reset_and_hazards.md R267, R275): no valid instruction is younger than an ECALL in M or W and
older than Decode. -/
def State.barrierInv (s : State) : Bool :=
  (!(s.ml.valid && s.ml.d.sub.isEcall) || !s.el.valid) &&
    (!(s.wl.valid && s.wl.d.sub.isEcall) || (!s.el.valid && !s.ml.valid))

/-- The record is NONE or the decoded record of its own word (30_encoding.md R82). -/
def recordOfWord (d : DecodedRecord) : Bool := decide (d = .nothing) || decide (d = decodeRecord d.raw)

/-- What E, M and W hold is NONE or the whole decoded record of one word (70_reset_and_hazards.md R256, R257, R262). -/
def State.recordsInv (s : State) : Bool := recordOfWord s.el.d && recordOfWord s.ml.d && recordOfWord s.wl.d

end Sys2Proof.Machine
end

