-- ==== Sys2Proof/Certificates/Slice0/Obligations.lean ====
section
/-! DEFINITION. The statements for the provers, in OBLIGATIONS.json's order. The values are written from the rules, not
with the model's ALU; the frames are the structures of Safety.lean. -/

open Sys2Proof Sys2Proof.Machine

/-! ### Encoding -/

/-- 30_encoding.md R79, R80, R83: every operand of every well-formed instruction survives encoding and decoding. -/
def Obligations.DecodeOfEncode : Prop := ∀ i : Instr, i.WellFormed = true → decode (encode i) = .instr i

/-- 30_encoding.md R80, R83: a word that decodes to an instruction is that instruction's only word, and the term is
well-formed; no bit of the word is lost. -/
def Obligations.EncodeOfDecode : Prop :=
  ∀ (w : InstWord) (i : Instr), decode w = .instr i → i.WellFormed = true ∧ encode i = w

/-- 30_encoding.md R80: a word decodes to an instruction iff it matches that instruction's row of the opcode table; no
two rows match one word; a word that matches no row is UNIMPLEMENTED. -/
def Obligations.DecodeFollowsTable : Prop :=
  (∀ (w : InstWord) (i : Instr), decode w = .instr i → i.row.holds w = true ∧ i.row ∈ tableRows) ∧
  (∀ (w : InstWord) (r : TableRow), r ∈ tableRows → r.holds w = true → ∃ i, decode w = .instr i ∧ i.row = r) ∧
  (∀ w : InstWord, decode w = .unimplemented ↔ ∀ r ∈ tableRows, r.holds w = false) ∧
  (∀ (w : InstWord) (r q : TableRow), r ∈ tableRows → q ∈ tableRows → r.holds w = true → q.holds w = true → r = q)

/-- Words written out from 30_encoding.md R72-R80, one or two of each format, decode to what they stand for. -/
def Obligations.WordsDecode : Prop :=
  decode (0b0000000_00110_00101_000_00111_0110011#32) = .instr (.add 7 5 6) ∧
  decode (0b0100000_00110_00101_000_00111_0110011#32) = .instr (.sub 7 5 6) ∧
  decode (0b0000001_00110_00101_010_00111_0110011#32) = .instr (.mulhsu 7 5 6) ∧
  decode (0b111111111111_00101_000_00110_0010011#32) = .instr (.addi 6 5 (-1)) ∧
  decode (0b010000000100_00101_101_00110_0010011#32) = .instr (.srai 6 5 0x404) ∧
  decode (0b000000001000_00010_011_00001_0000011#32) = .instr (.ld 1 2 8) ∧
  decode (0b1111111_00001_00010_011_11000_0100011#32) = .instr (.sd 2 1 (-8)) ∧
  decode (0b1111111_00110_00101_001_11101_1100011#32) = .instr (.bne 5 6 (-4)) ∧
  decode (0b00010010001101000101_00101_0110111#32) = .instr (.lui 5 0x12345) ∧
  decode (0b11111111110111111111_00001_1101111#32) = .instr (.jal 1 (-4)) ∧
  decode (0b000000000000_00001_000_00000_1100111#32) = .instr (.jalr 0 1 0) ∧
  decode 0x00000073#32 = .instr .ecall ∧ decode 0x00100073#32 = .instr .ebreak ∧ decode 0#32 = .unimplemented

/-- 30_encoding.md R73-R78: bit k of each immediate, as the position of the word it comes from. -/
def Obligations.ImmediateBits : Prop :=
  ∀ (w : InstWord) (k : Nat), k < 64 →
    (immOf .i w).getLsbD k = (if k < 11 then w.getLsbD (k + 20) else w.getLsbD 31) ∧
    (immOf .s w).getLsbD k =
      (if k < 5 then w.getLsbD (k + 7) else if k < 11 then w.getLsbD (k + 20) else w.getLsbD 31) ∧
    (immOf .sb w).getLsbD k =
      (if k = 0 then false else if k < 5 then w.getLsbD (k + 7) else if k < 11 then w.getLsbD (k + 20)
        else if k = 11 then w.getLsbD 7 else w.getLsbD 31) ∧
    (immOf .u w).getLsbD k = (if k < 12 then false else if k < 31 then w.getLsbD k else w.getLsbD 31) ∧
    (immOf .uj w).getLsbD k =
      (if k = 0 then false else if k < 11 then w.getLsbD (k + 20) else if k = 11 then w.getLsbD 20
        else if k < 20 then w.getLsbD k else w.getLsbD 31)

/-- 30_encoding.md R86 (and the low bits of R89): there is no illegal-instruction exception. Every word outside the rows of
the table is UNIMPLEMENTED; among them, words whose low two bits are not
11, the FENCE, atomic, floating-point, vector and custom opcodes, every SYSTEM word but ECALL and EBREAK, and the reserved
funct3 and funct7 values. -/
def Obligations.NoOtherEncodings : Prop :=
  ∀ w : InstWord,
    let op := w.extractLsb' 0 7
    let f3 := w.extractLsb' 12 3
    let f7 := w.extractLsb' 25 7
    (w.extractLsb' 0 2 ≠ 0b11#2 → decode w = .unimplemented) ∧
    (op ∈ [0b0001111#7, 0b0101111#7, 0b0000111#7, 0b0100111#7, 0b1000011#7, 0b1000111#7, 0b1001011#7, 0b1001111#7,
        0b1010011#7, 0b1010111#7, 0b0001011#7, 0b0101011#7, 0b1011011#7, 0b1111011#7] → decode w = .unimplemented) ∧
    (op = 0b1110011#7 → w ≠ 0x00000073#32 → w ≠ 0x00100073#32 → decode w = .unimplemented) ∧
    (op = 0b0000011#7 → f3 = 0b111#3 → decode w = .unimplemented) ∧
    (op = 0b1100011#7 → f3 = 0b010#3 ∨ f3 = 0b011#3 → decode w = .unimplemented) ∧
    (op = 0b0100011#7 → 4 ≤ f3.toNat → decode w = .unimplemented) ∧
    (op = 0b0110011#7 ∨ op = 0b0111011#7 →
      f7 ∉ [0b0000000#7, 0b0100000#7, 0b0000001#7] ∨ (f7 = 0b0100000#7 ∧ f3 ≠ 0b000#3 ∧ f3 ≠ 0b101#3) →
      decode w = .unimplemented) ∧
    ((∀ r ∈ tableRows, r.holds w = false) → decode w = .unimplemented) ∧ decode 0#32 = .unimplemented

/-! ### The atomic step -/

/-- 40_execution_step.md R95: in atomic mode, a step whose fetched word decodes to `i` is `exec i`; what the step adds is
only the end of a resumption (R103). -/
def Obligations.StepRunsDecoded : Prop :=
  ∀ (s : State) (w : InstWord) (i : Instr), s.fetches w → decode w = .instr i →
    step s = match exec i s with
      | .next t => .next { t with resuming := t.resuming && t.hold }
      | .fault e => .fault e
      | .refused r => .refused r

/-- 30_encoding.md R81: a word that matches no row of the table decodes to UNIMPLEMENTED, and executing it is a no-op: the
pc advances by 4, ICOUNT by 1, and nothing else changes (a resumption, the host's, ends). -/
def Obligations.UnimplementedIsCountedNop : Prop :=
  ∀ (s : State) (w : InstWord), s.fetches w → (∀ r ∈ tableRows, r.holds w = false) →
    decode w = .unimplemented ∧
    step s = .next { s with pc := s.pc + 4, icount := s.icount + 1, resuming := false }

/-- 20_memory.md R45, R48: MemFetch stops with FetchMisaligned at an address that is no multiple of 4, whatever the page;
else with MemoryFault(FETCH) at the lowest byte that is not below MAXADDR, present and executable; else it gives the
little-endian word, whose bytes lie in one page. An atomic step whose fetch stops changes STOP only (40_execution_step.md
R96). -/
def Obligations.FetchRule : Prop :=
  (∀ (c : Config) (m : Memory) (a : Word),
    (a.toNat % 4 ≠ 0 → memFetch c m a = .error (.fetchMisaligned a)) ∧
    (a.toNat % 4 = 0 → ∀ k, k < 4 → fetchableByte c m (a.toNat + k) = false →
      (∀ j, j < k → fetchableByte c m (a.toNat + j) = true) →
      memFetch c m a = .error (.memoryFault .fetch (BitVec.ofNat 64 (a.toNat + k)))) ∧
    (a.toNat % 4 = 0 → (∀ k, k < 4 → fetchableByte c m (a.toNat + k) = true) →
      memFetch c m a = .ok ((byteAt c m (a.toNat + 3)).getD 0 ++ (byteAt c m (a.toNat + 2)).getD 0 ++
        (byteAt c m (a.toNat + 1)).getD 0 ++ (byteAt c m a.toNat).getD 0)) ∧
    (a.toNat % 4 = 0 → 2 ≤ c.pageBits → ∀ k, k < 4 → pageBase c (a.toNat + k) = pageBase c a.toNat)) ∧
  (∀ (s : State) (e : StopReason), s.cfg.mode = .atomic → s.runs = true → memFetch s.cfg s.mem s.pc = .error e →
    step s = .next { stopped s e with resuming := false })

/-- 40_execution_step.md R102, 60_exceptions.md R239: after the end of the run, and while the core holds, a step changes
nothing, in either mode. -/
def Obligations.NothingAfterEndOrInHold : Prop :=
  ∀ s : State, s.finished = true ∨ s.stop.isSome = true ∨ s.hold = true → step s = .next s

/-- 40_execution_step.md R103, 60_exceptions.md R245, 70_reset_and_hazards.md R274: an enabled entry of the breakpoint table
that holds the pc (pipelined: the address of a valid W latch) pauses the run once: the first step changes no register,
memory, counter or latch, and the next one is performed without the check. Without such an entry, and in a resumed run, the
step is the engine's and there is no pause. That a pause is a step which sets a mark is the model's choice (log 12). -/
def Obligations.CheckPointPausesOnce : Prop :=
  ∀ s : State, s.ended = false → s.hold = false →
    let entryAt : Prop :=
      (s.cfg.mode = .atomic ∧ ∃ b ∈ s.breakpoints, b.enabled = true ∧ b.addr = s.pc) ∨
      (s.cfg.mode = .pipelined ∧ s.wl.valid = true ∧ ∃ b ∈ s.breakpoints, b.enabled = true ∧ b.addr = s.wl.pc)
    (entryAt → s.resuming = false →
      step s = .next { s with resuming := true } ∧
      step { s with resuming := true } = afterStep (engineStep { s with resuming := true })) ∧
    (¬entryAt ∨ s.resuming = true → step s = afterStep (engineStep s))

/-- 40_execution_step.md R102, 70_reset_and_hazards.md R271, 60_exceptions.md R246: a call of the run loop takes steps of the
machine until its answer holds of the state it leaves: FINISHED, STOPPED, HELD or PAUSED; a call after the end does nothing.
With budget n it commits at most n instructions, exactly n where it answers BUDGET, and none for n = 0; an unbounded call
never answers BUDGET. The bound `fuel` on its steps is the model's (log 16: it runs out only after all of them), and so is
the answer HELD of a call made in a hold at an enabled breakpoint (log 20). -/
def Obligations.RunBudget : Prop :=
  (∀ (fuel n : Nat) (s t : State) (r : RunResult), run fuel (some n) s = (r, t) →
    RunAnswered fuel s t r ∧
    (∃ k, k ≤ n ∧ t.icount = s.icount + BitVec.ofNat 64 k ∧ (r = .budget → k = n)) ∧ (n = 0 → t = s)) ∧
  (∀ (fuel : Nat) (s t : State) (r : RunResult), run fuel none s = (r, t) → RunAnswered fuel s t r ∧ r ≠ .budget)

/-! ### Integer instructions -/

/-- 41_integer.md R114-R116, R119-R121, R125, R126, R130, R133, R134: the results of the sums, the logical operations and
the upper immediates, with the whole effect. -/
def Obligations.SumAndLogicResults : Prop :=
  ∀ (s : State) (rd rs1 rs2 : Reg) (imm : BitVec 12) (u : BitVec 20),
    Results s (.lui rd u) rd ((u ++ 0#12 : BitVec 32).signExtend 64) ∧
    Results s (.auipc rd u) rd (s.pc + (u ++ 0#12 : BitVec 32).signExtend 64) ∧
    Results s (.addi rd rs1 imm) rd (s.reg rs1 + imm.signExtend 64) ∧
    Results s (.xori rd rs1 imm) rd (s.reg rs1 ^^^ imm.signExtend 64) ∧
    Results s (.ori rd rs1 imm) rd (s.reg rs1 ||| imm.signExtend 64) ∧
    Results s (.andi rd rs1 imm) rd (s.reg rs1 &&& imm.signExtend 64) ∧
    Results s (.add rd rs1 rs2) rd (s.reg rs1 + s.reg rs2) ∧
    Results s (.sub rd rs1 rs2) rd (s.reg rs1 - s.reg rs2) ∧
    Results s (.xor rd rs1 rs2) rd (s.reg rs1 ^^^ s.reg rs2) ∧
    Results s (.or rd rs1 rs2) rd (s.reg rs1 ||| s.reg rs2) ∧
    Results s (.and rd rs1 rs2) rd (s.reg rs1 &&& s.reg rs2)

/-- 41_integer.md R113, R117, R118, R128, R129: the comparisons give 0 or 1, signed or unsigned; SLTIU sign-extends its
immediate first. -/
def Obligations.ComparisonResults : Prop :=
  ∀ (s : State) (rd rs1 rs2 : Reg) (imm : BitVec 12),
    Results s (.slti rd rs1 imm) rd (if (s.reg rs1).slt (imm.signExtend 64) then 1 else 0) ∧
    Results s (.sltiu rd rs1 imm) rd (if (s.reg rs1).ult (imm.signExtend 64) then 1 else 0) ∧
    Results s (.slt rd rs1 rs2) rd (if (s.reg rs1).slt (s.reg rs2) then 1 else 0) ∧
    Results s (.sltu rd rs1 rs2) rd (if (s.reg rs1).ult (s.reg rs2) then 1 else 0)

/-- 41_integer.md R111, R122-R124, R127, R131, R132: the 64-bit shifts, by bits 5..0 of the amount. -/
def Obligations.ShiftResults : Prop :=
  ∀ (s : State) (rd rs1 rs2 : Reg) (imm : BitVec 12),
    Results s (.slli rd rs1 imm) rd (s.reg rs1 <<< (imm.toNat % 64)) ∧
    Results s (.srli rd rs1 imm) rd (s.reg rs1 >>> (imm.toNat % 64)) ∧
    Results s (.srai rd rs1 imm) rd ((s.reg rs1).sshiftRight (imm.toNat % 64)) ∧
    Results s (.sll rd rs1 rs2) rd (s.reg rs1 <<< ((s.reg rs2).toNat % 64)) ∧
    Results s (.srl rd rs1 rs2) rd (s.reg rs1 >>> ((s.reg rs2).toNat % 64)) ∧
    Results s (.sra rd rs1 rs2) rd ((s.reg rs1).sshiftRight ((s.reg rs2).toNat % 64))

/-- 41_integer.md R135, R139, R140: the word sums use the low words and sign-extend the 32-bit result. -/
def Obligations.WordSumResults : Prop :=
  ∀ (s : State) (rd rs1 rs2 : Reg) (imm : BitVec 12),
    Results s (.addiw rd rs1 imm) rd (((s.reg rs1).setWidth 32 + imm.signExtend 32).signExtend 64) ∧
    Results s (.addw rd rs1 rs2) rd (((s.reg rs1).setWidth 32 + (s.reg rs2).setWidth 32).signExtend 64) ∧
    Results s (.subw rd rs1 rs2) rd (((s.reg rs1).setWidth 32 - (s.reg rs2).setWidth 32).signExtend 64)

/-- 41_integer.md R112, R136-R138, R141-R143: the word shifts. An amount of 32 to 63 under FULL shifts everything out
(all copies of bit 31 for the arithmetic shift); under MOD32 the low five bits of the amount count. -/
def Obligations.WordShiftResults : Prop :=
  ∀ (s : State) (rd rs1 rs2 : Reg) (imm : BitVec 12),
    let w := (s.reg rs1).setWidth 32
    let out (n : Nat) : Prop := s.cfg.wshiftWide = .full ∧ 32 ≤ n % 64
    (¬out imm.toNat →
      Results s (.slliw rd rs1 imm) rd ((w <<< (imm.toNat % 32)).signExtend 64) ∧
      Results s (.srliw rd rs1 imm) rd ((w >>> (imm.toNat % 32)).signExtend 64) ∧
      Results s (.sraiw rd rs1 imm) rd ((w.sshiftRight (imm.toNat % 32)).signExtend 64)) ∧
    (out imm.toNat →
      Results s (.slliw rd rs1 imm) rd 0 ∧ Results s (.srliw rd rs1 imm) rd 0 ∧
      Results s (.sraiw rd rs1 imm) rd (if (s.reg rs1).getLsbD 31 then 0xFFFFFFFFFFFFFFFF else 0)) ∧
    (¬out (s.reg rs2).toNat →
      Results s (.sllw rd rs1 rs2) rd ((w <<< ((s.reg rs2).toNat % 32)).signExtend 64) ∧
      Results s (.srlw rd rs1 rs2) rd ((w >>> ((s.reg rs2).toNat % 32)).signExtend 64) ∧
      Results s (.sraw rd rs1 rs2) rd ((w.sshiftRight ((s.reg rs2).toNat % 32)).signExtend 64)) ∧
    (out (s.reg rs2).toNat →
      Results s (.sllw rd rs1 rs2) rd 0 ∧ Results s (.srlw rd rs1 rs2) rd 0 ∧
      Results s (.sraw rd rs1 rs2) rd (if (s.reg rs1).getLsbD 31 then 0xFFFFFFFFFFFFFFFF else 0))

/-! ### Multiply and divide -/

/-- 42_muldiv.md R150, R154-R158: the products, exact in 128 bits. -/
def Obligations.MultiplyResults : Prop :=
  ∀ (s : State) (rd rs1 rs2 : Reg),
    Results s (.mul rd rs1 rs2) rd (s.reg rs1 * s.reg rs2) ∧
    Results s (.mulh rd rs1 rs2) rd
      (((s.reg rs1).signExtend 128 * (s.reg rs2).signExtend 128).extractLsb' 64 64) ∧
    Results s (.mulhsu rd rs1 rs2) rd
      (((s.reg rs1).signExtend 128 * (s.reg rs2).setWidth 128).extractLsb' 64 64) ∧
    Results s (.mulhu rd rs1 rs2) rd
      (((s.reg rs1).setWidth 128 * (s.reg rs2).setWidth 128).extractLsb' 64 64) ∧
    Results s (.mulw rd rs1 rs2) rd (((s.reg rs1).setWidth 32 * (s.reg rs2).setWidth 32).signExtend 64)

/-- 42_muldiv.md R150, R151, R159-R162: quotients round toward zero and a remainder has the dividend's sign; division by
zero gives all ones or the dividend; the overflow gives -2^63 and 0 under DIV_OVF = RISCV. -/
def Obligations.DivideResults : Prop :=
  ∀ (s : State) (rd rs1 rs2 : Reg),
    (divStops s (s.reg rs1) (s.reg rs2) = false →
      Results s (.div rd rs1 rs2) rd
        (if s.reg rs2 = 0 then 0xFFFFFFFFFFFFFFFF else (s.reg rs1).sdiv (s.reg rs2)) ∧
      Results s (.rem rd rs1 rs2) rd (if s.reg rs2 = 0 then s.reg rs1 else (s.reg rs1).srem (s.reg rs2))) ∧
    Results s (.divu rd rs1 rs2) rd (if s.reg rs2 = 0 then 0xFFFFFFFFFFFFFFFF else s.reg rs1 / s.reg rs2) ∧
    Results s (.remu rd rs1 rs2) rd (if s.reg rs2 = 0 then s.reg rs1 else s.reg rs1 % s.reg rs2)

/-- 42_muldiv.md R150, R151, R163-R166: the word divisions. A divisor with a zero low word gives full-width all ones, or
the sign-extended low word of the dividend. -/
def Obligations.WordDivideResults : Prop :=
  ∀ (s : State) (rd rs1 rs2 : Reg),
    let a := (s.reg rs1).setWidth 32
    let b := (s.reg rs2).setWidth 32
    (divStopsWord s (s.reg rs1) (s.reg rs2) = false →
      Results s (.divw rd rs1 rs2) rd (if b = 0 then 0xFFFFFFFFFFFFFFFF else (a.sdiv b).signExtend 64) ∧
      Results s (.remw rd rs1 rs2) rd (if b = 0 then a.signExtend 64 else (a.srem b).signExtend 64)) ∧
    Results s (.divuw rd rs1 rs2) rd (if b = 0 then 0xFFFFFFFFFFFFFFFF else (a / b).signExtend 64) ∧
    Results s (.remuw rd rs1 rs2) rd (if b = 0 then a.signExtend 64 else (a % b).signExtend 64)

/-- 42_muldiv.md R151: a signed overflow gives the results of DIV_OVF = RISCV, or, under FAULT, stops the run with
ArithmeticFault and no other effect, whatever the destination; no other case of a multiply or divide can stop, but with the
StackExhausted of a commit to x2: DIV and REM stop only on the 64-bit overflow, DIVW and REMW only on that of the low
words. -/
def Obligations.SignedDivisionOverflow : Prop :=
  ∀ (s : State) (rd rs1 rs2 : Reg),
    let a := s.reg rs1
    let b := s.reg rs2
    let wide := a = 0x8000000000000000 ∧ b = 0xFFFFFFFFFFFFFFFF
    let low := a.setWidth 32 = 0x80000000#32 ∧ b.setWidth 32 = 0xFFFFFFFF#32
    let fault := stopped s (.arithmeticFault s.pc)
    let noOtherStop (i : Instr) : Prop :=
      (∃ t, exec i s = .next t ∧ t.stop = s.stop) ∨
        ∃ v, commitAllowed s rd v = false ∧ exec i s = .next (stopped s (.stackExhausted v))
    (s.cfg.divOvf = .riscv →
      (wide → Results s (.div rd rs1 rs2) rd 0x8000000000000000 ∧ Results s (.rem rd rs1 rs2) rd 0) ∧
      (low → Results s (.divw rd rs1 rs2) rd 0xFFFFFFFF80000000 ∧ Results s (.remw rd rs1 rs2) rd 0)) ∧
    (s.cfg.divOvf = .fault →
      (wide → exec (.div rd rs1 rs2) s = .next fault ∧ exec (.rem rd rs1 rs2) s = .next fault) ∧
      (low → exec (.divw rd rs1 rs2) s = .next fault ∧ exec (.remw rd rs1 rs2) s = .next fault)) ∧
    (∀ i ∈ [Instr.mul rd rs1 rs2, .mulh rd rs1 rs2, .mulhsu rd rs1 rs2, .mulhu rd rs1 rs2, .mulw rd rs1 rs2,
        .divu rd rs1 rs2, .remu rd rs1 rs2, .divuw rd rs1 rs2, .remuw rd rs1 rs2], noOtherStop i) ∧
    (¬(s.cfg.divOvf = .fault ∧ wide) → noOtherStop (.div rd rs1 rs2) ∧ noOtherStop (.rem rd rs1 rs2)) ∧
    (¬(s.cfg.divOvf = .fault ∧ low) → noOtherStop (.divw rd rs1 rs2) ∧ noOtherStop (.remw rd rs1 rs2))

/-! ### Loads and stores -/

/-- 43_loads_stores.md R170, R171, R173-R179, 20_memory.md R44-R46, R51: where its bytes are readable, at any alignment,
each load commits the little-endian value, extended; with an unreadable byte it stops with MemoryFault(READ) at the lowest
such byte and has no effect, a load to x0 included. -/
def Obligations.LoadDataPath : Prop :=
  ∀ (s : State) (rd rs1 : Reg) (imm : BitVec 12),
    let a := (s.reg rs1 + imm.signExtend 64).toNat
    let b (k : Nat) : Byte := loadedByte s (a + k)
    (readable s a 1 = true →
      Results s (.lb rd rs1 imm) rd ((b 0).signExtend 64) ∧ Results s (.lbu rd rs1 imm) rd ((b 0).setWidth 64)) ∧
    (readable s a 2 = true →
      Results s (.lh rd rs1 imm) rd ((b 1 ++ b 0).signExtend 64) ∧
      Results s (.lhu rd rs1 imm) rd ((b 1 ++ b 0).setWidth 64)) ∧
    (readable s a 4 = true →
      Results s (.lw rd rs1 imm) rd ((b 3 ++ b 2 ++ b 1 ++ b 0).signExtend 64) ∧
      Results s (.lwu rd rs1 imm) rd ((b 3 ++ b 2 ++ b 1 ++ b 0).setWidth 64)) ∧
    (readable s a 8 = true →
      Results s (.ld rd rs1 imm) rd (b 7 ++ b 6 ++ b 5 ++ b 4 ++ b 3 ++ b 2 ++ b 1 ++ b 0)) ∧
    (∀ k, readable s a k = true → readableByte s (a + k) = false →
      let e := stopped s (.memoryFault .read (BitVec.ofNat 64 (a + k)))
      (k < 1 → exec (.lb rd rs1 imm) s = .next e ∧ exec (.lbu rd rs1 imm) s = .next e) ∧
      (k < 2 → exec (.lh rd rs1 imm) s = .next e ∧ exec (.lhu rd rs1 imm) s = .next e) ∧
      (k < 4 → exec (.lw rd rs1 imm) s = .next e ∧ exec (.lwu rd rs1 imm) s = .next e) ∧
      (k < 8 → exec (.ld rd rs1 imm) s = .next e))

/-- 43_loads_stores.md R170, R172, R180-R183, 20_memory.md R44, R45, R47, R50, R51: where its bytes are writable, at any
alignment, each store puts the low bytes of x[rs2] there, little end first, and changes nothing else; with an unwritable
byte it writes no byte, allocates nothing and stops with MemoryFault(WRITE) at the lowest such byte. -/
def Obligations.StoreDataPath : Prop :=
  ∀ (s : State) (rs1 rs2 : Reg) (imm : BitVec 12),
    let a := (s.reg rs1 + imm.signExtend 64).toNat
    (writable s a 1 = true → ∃ t, exec (.sb rs1 rs2 imm) s = .next t ∧ StoredTo s a 1 (s.reg rs2) t) ∧
    (writable s a 2 = true → ∃ t, exec (.sh rs1 rs2 imm) s = .next t ∧ StoredTo s a 2 (s.reg rs2) t) ∧
    (writable s a 4 = true → ∃ t, exec (.sw rs1 rs2 imm) s = .next t ∧ StoredTo s a 4 (s.reg rs2) t) ∧
    (writable s a 8 = true → ∃ t, exec (.sd rs1 rs2 imm) s = .next t ∧ StoredTo s a 8 (s.reg rs2) t) ∧
    (∀ k, writable s a k = true → writableByte s (a + k) = false →
      let e := stopped s (.memoryFault .write (BitVec.ofNat 64 (a + k)))
      (k < 1 → exec (.sb rs1 rs2 imm) s = .next e) ∧ (k < 2 → exec (.sh rs1 rs2 imm) s = .next e) ∧
      (k < 4 → exec (.sw rs1 rs2 imm) s = .next e) ∧ (k < 8 → exec (.sd rs1 rs2 imm) s = .next e))

/-- 40_execution_step.md R99: the register commit of every Writeback. x0 discards; x2 out of [HEAP_MAX, MAXADDR] stops with
StackExhausted, and else has its page created if absent and below MAXADDR, writable and not executable, all zero under
NEW_PAGE_FILL = ZERO, and no page created otherwise (v = MAXADDR); any other register takes the value. -/
def Obligations.CommitRule : Prop :=
  ∀ (s : State) (r : Reg) (v : Word),
    (r = 0 → commit r v s = .ok s) ∧
    (r = 2#5 → v.toNat < s.cfg.heapMax.toNat ∨ s.cfg.maxAddr.toNat < v.toNat →
      commit r v s = .error (.stackExhausted v)) ∧
    (commitAllowed s r v = true → ∃ t, commit r v s = .ok t ∧ RegsCommitted s r v t ∧ PagesCommitted s r v t ∧
      t.pc = s.pc ∧ t.icount = s.icount ∧ EngineKept s t ∧ Untouched s t)

/-- 20_memory.md R49: Alloc does nothing at or above MAXADDR and nothing where the page is present; else it creates the
page with the bits given, all zero under NEW_PAGE_FILL = ZERO, and each byte a free value otherwise. Nothing but the page
table changes, in which every other page and byte stays. That the free values are this creation's own draw, numbered by the
model's counter `draws`, is the model's choice (log 4, DESIGN CHOICE); the statement holds for every value of the draws. -/
def Obligations.AllocRule : Prop :=
  ∀ (s : State) (p : Nat) (w x : Bool),
    (s.cfg.maxAddr.toNat ≤ p → s.alloc p w x = s) ∧
    ((findPage s.mem.pages p).isSome = true → s.alloc p w x = s) ∧
    (p < s.cfg.maxAddr.toNat → findPage s.mem.pages p = none →
      ∃ m, s.alloc p w x = { s with mem := m, draws := s.draws + 1 } ∧ m.cells = s.mem.cells ∧
        (∃ q, findPage m.pages p = some q ∧ q.base = p ∧ q.writable = w ∧ q.executable = x) ∧
        (∀ b, b ≠ p → findPage m.pages b = findPage s.mem.pages b) ∧
        (∀ a, pageBase s.cfg a ≠ p → byteAt s.cfg m a = byteAt s.cfg s.mem a) ∧
        (s.memoryInv = true → ∀ a, pageBase s.cfg a = p → byteAt s.cfg m a = some (match s.cfg.newPageFill with
          | .zero => 0
          | .unspecified => Config.drawnByte s.draws (a - p))))

/-- 20_memory.md R46, R47, R58: a read of the bytes just written gives the value written, and a read of bytes apart from
them gives what it gave before. -/
def Obligations.ReadAfterWrite : Prop :=
  ∀ (c : Config) (m m' : Memory) (a : Word) (n : Nat) (v : Word), n ≤ 8 → memWrite c m a n v = .ok m' →
    memRead c m' a n = .ok (BitVec.ofNat 64 (v.toNat % 2 ^ (8 * n))) ∧
    ∀ (b : Word) (k : Nat), b.toNat + k ≤ a.toNat ∨ a.toNat + n ≤ b.toNat → memRead c m' b k = memRead c m b k

/-! ### Control transfers -/

/-- 44_control.md R185, R187, R189, R190: JAL and JALR commit pc + 4 and continue at the target, JALR's with bit 0 clear
and from the base before the commit; a commit that breaks the stack rule stops the run and nothing is redirected. -/
def Obligations.JumpResults : Prop :=
  ∀ (s : State) (rd rs1 : Reg) (off : BitVec 21) (imm : BitVec 12),
    ResultsAt s (.jal rd off) rd (s.pc + 4) (s.pc + off.signExtend 64) ∧
    ResultsAt s (.jalr rd rs1 imm) rd (s.pc + 4) ((s.reg rs1 + imm.signExtend 64) &&& 0xFFFFFFFFFFFFFFFE)

/-- 44_control.md R185, R191-R196: each branch goes to pc + immB if its condition holds, else to pc + 4; it is counted and
changes nothing else. -/
def Obligations.BranchResults : Prop :=
  ∀ (s : State) (rs1 rs2 : Reg) (off : BitVec 13),
    let a := s.reg rs1
    let b := s.reg rs2
    let goes (c : Bool) : State :=
      { s with pc := if c then s.pc + off.signExtend 64 else s.pc + 4, icount := s.icount + 1 }
    exec (.beq rs1 rs2 off) s = .next (goes (a == b)) ∧
    exec (.bne rs1 rs2 off) s = .next (goes (a != b)) ∧
    exec (.blt rs1 rs2 off) s = .next (goes (a.slt b)) ∧
    exec (.bge rs1 rs2 off) s = .next (goes (!a.slt b)) ∧
    exec (.bltu rs1 rs2 off) s = .next (goes (a.ult b)) ∧
    exec (.bgeu rs1 rs2 off) s = .next (goes (!a.ult b))

/-- 44_control.md R186: no jump or branch checks its target. A JAL, a JALR or a taken branch whose target is no multiple of 4
(then it is 2 modulo 4) commits, its link register included, is counted and continues at the target; and the next step, or
the one after the pause of a breakpoint there, stops with FetchMisaligned at the target. -/
def Obligations.MisalignedTargetStopsNextFetch : Prop :=
  ∀ (s : State) (w : InstWord), s.fetches w →
    let stopsAt (t : State) (target : Word) : Prop :=
      target.toNat % 4 = 2 ∧ t.pc = target ∧
      ∀ u, (u = t ∧ t.atCheckPoint = false) ∨ u = { t with resuming := true } →
        step u = .next { t with stop := some { reason := .fetchMisaligned target, instPc := target } }
    let jumps (rd : Reg) (target : Word) : Prop :=
      target.toNat % 4 ≠ 0 → commitAllowed s rd (s.pc + 4) = true →
        ∃ t, CommittedTo s rd (s.pc + 4) target t ∧ step s = .next { t with resuming := false } ∧
          stopsAt { t with resuming := false } target
    (∀ rd off, decode w = .instr (.jal rd off) → jumps rd (s.pc + off.signExtend 64)) ∧
    (∀ rd rs1 imm, decode w = .instr (.jalr rd rs1 imm) →
      jumps rd ((s.reg rs1 + imm.signExtend 64) &&& 0xFFFFFFFFFFFFFFFE)) ∧
    (∀ rs1 rs2 off, ∀ p ∈ branchConditions rs1 rs2 off (s.reg rs1) (s.reg rs2), decode w = .instr p.1 → p.2 = true →
      let target := s.pc + off.signExtend 64
      target.toNat % 4 ≠ 0 →
        let t := { s with pc := target, icount := s.icount + 1, resuming := false }
        step s = .next t ∧ stopsAt t target)

/-! ### The service port -/

/-- 45_system.md R213: EBREAK is exactly the word 0x00100073; it always stops with Breakpoint at its address, is not
counted and changes nothing else; in the pipeline the stop travels with it and is raised in Writeback. -/
def Obligations.EbreakStops : Prop :=
  (∀ w : InstWord, decode w = .instr .ebreak ↔ w = 0x00100073#32) ∧
  (∀ s : State, exec .ebreak s = .next { s with stop := some { reason := .breakpoint s.pc, instPc := s.pc } }) ∧
  (∀ s t : State, s.ticks t → s.el.valid = true → s.el.exc = none → s.el.d.sub = .instr .ebreak →
    t.ml.exc = some (.breakpoint s.el.pc) ∧ t.stop = none)

/-- 45_system.md R200, R203, R204: PRINT_INT appends the signed decimal of its argument and PRINT_CHAR its low byte; the
result 0 is committed and nothing else changes. -/
def Obligations.EcallPrints : Prop :=
  ∀ s : State, commitAllowed s s.cfg.sysResReg 0 = true →
    let arg := s.reg s.cfg.sysArgReg
    let prints (bs : List Byte) : Prop :=
      ∃ t, exec .ecall s = .next t ∧ RegsCommitted s s.cfg.sysResReg 0 t ∧ PagesCommitted s s.cfg.sysResReg 0 t ∧
        Counted s (s.pc + 4) t ∧ EngineKept { s with output := s.output ++ bs } t ∧ Untouched s t
    (s.asksFor s.cfg.sysno.printInt →
      prints ((toString arg.toInt).toList.map fun c => BitVec.ofNat 8 c.toNat)) ∧
    (s.asksFor s.cfg.sysno.printChar → prints [arg.extractLsb' 0 8])

/-- 45_system.md R205: PRINT_STRING appends the bytes before the first zero byte; if a byte cannot be read before that,
the run stops there with MemoryFault(READ), and what was printed is kept. -/
def Obligations.EcallPrintString : Prop :=
  ∀ (s : State) (n : Nat), s.asksFor s.cfg.sysno.printString →
    let a := (s.reg s.cfg.sysArgReg).toNat
    let text := (List.range n).map fun k => loadedByte s (a + k)
    readable s a n = true → (∀ k, k < n → loadedByte s (a + k) ≠ 0) →
      (readableByte s (a + n) = true → loadedByte s (a + n) = 0 → commitAllowed s s.cfg.sysResReg 0 = true →
        ∃ t, exec .ecall s = .next t ∧ RegsCommitted s s.cfg.sysResReg 0 t ∧ PagesCommitted s s.cfg.sysResReg 0 t ∧
          Counted s (s.pc + 4) t ∧ EngineKept { s with output := s.output ++ text } t ∧ Untouched s t) ∧
      (readableByte s (a + n) = false →
        exec .ecall s = .next (stopped { s with output := s.output ++ text }
          (.memoryFault .read (BitVec.ofNat 64 (a + n)))))

/-- 45_system.md R202, R206, R207: READ_INT gives the host's value and READ_CHAR a byte, zero-extended; with no input the
core holds and nothing else changes. That the input is a list of values, one for each read, of which READ_CHAR takes the low
byte and consumes the whole, is the model's choice (log 6, DESIGN CHOICE). -/
def Obligations.EcallReads : Prop :=
  ∀ s : State,
    let reads (v : Word) (vs : List Word) : Prop :=
      commitAllowed s s.cfg.sysResReg v = true →
        ∃ t, exec .ecall s = .next t ∧ RegsCommitted s s.cfg.sysResReg v t ∧ PagesCommitted s s.cfg.sysResReg v t ∧
          Counted s (s.pc + 4) t ∧ EngineKept { s with input := vs } t ∧ Untouched s t
    (∀ v vs, s.input = v :: vs →
      (s.asksFor s.cfg.sysno.readInt → reads v vs) ∧
      (s.asksFor s.cfg.sysno.readChar → reads ((v.extractLsb' 0 8).setWidth 64) vs)) ∧
    (s.input = [] → s.asksFor s.cfg.sysno.readInt ∨ s.asksFor s.cfg.sysno.readChar →
      exec .ecall s = .next { s with hold := true })

/-- 45_system.md R202: after a hold, the ECALL is performed again in full when the host supplies input, as if the input had
been there at first. -/
def Obligations.HeldEcallIsPerformedAgain : Prop :=
  ∀ (s h : State) (vs : List Word), s.hold = false → s.input = [] →
    s.asksFor s.cfg.sysno.readInt ∨ s.asksFor s.cfg.sysno.readChar → exec .ecall s = .next h →
    exec .ecall (h.supplyInput vs) = exec .ecall { s with input := vs }

/-- 45_system.md R208: SBRK, the new break in unbounded integers. In [HEAP_BASE, HEAP_MAX]: the old break is returned, HEAP
moves, every page below MAXADDR that meets [old, new) is present, only such pages are created (and the page x2 commits to,
if it takes the result), writable and not executable, and no byte or permission of a present page changes. Else the run
stops with HeapExhausted and nothing else changes; and so it stops with StackExhausted where the result register is x2 and
the old break is out of its bounds. That a delta of 0 or less creates no page is the model's choice (log 8, DEDUCED): it
follows the rule's prose where its loop, read literally, differs. -/
def Obligations.EcallSbrk : Prop :=
  ∀ s : State, s.asksFor s.cfg.sysno.sbrk →
    let old := s.heap
    let new : Int := (old.toNat : Int) + (s.reg s.cfg.sysArgReg).toInt
    ((s.cfg.heapBase.toNat : Int) ≤ new → new ≤ (s.cfg.heapMax.toNat : Int) → commitAllowed s s.cfg.sysResReg old = true →
      ∃ t, exec .ecall s = .next t ∧ RegsCommitted s s.cfg.sysResReg old t ∧ Counted s (s.pc + 4) t ∧
        EngineKept { s with heap := BitVec.ofInt 64 new } t ∧ Untouched s t ∧
        (∀ a p, walk s.cfg s.mem a = some p →
          walk t.cfg t.mem a = some p ∧ byteAt t.cfg t.mem a = byteAt s.cfg s.mem a) ∧
        (∀ a, old.toNat ≤ a → (a : Int) < new → pageBase s.cfg a < s.cfg.maxAddr.toNat →
          (walk t.cfg t.mem a).isSome = true) ∧
        (∀ a p, walk s.cfg s.mem a = none → walk t.cfg t.mem a = some p →
          p.writable = true ∧ p.executable = false ∧
          (((old.toNat : Int) < new ∧ (pageBase s.cfg a : Int) < new ∧ old.toNat < pageBase s.cfg a + pageSize s.cfg) ∨
            (s.cfg.sysResReg = 2#5 ∧ pageBase s.cfg a = pageBase s.cfg old.toNat)))) ∧
    ((s.cfg.heapBase.toNat : Int) ≤ new → new ≤ (s.cfg.heapMax.toNat : Int) → commitAllowed s s.cfg.sysResReg old = false →
      exec .ecall s = .next (stopped s (.stackExhausted old))) ∧
    (new < (s.cfg.heapBase.toNat : Int) ∨ (s.cfg.heapMax.toNat : Int) < new →
      exec .ecall s = .next (stopped s (.heapExhausted (BitVec.ofInt 64 new))))

/-- 45_system.md R209-R211: the heap-bound queries return the configured bounds and do nothing else; EXIT records its
argument, commits 0, sets FINISHED and is counted, and no later step does anything. -/
def Obligations.EcallQueriesAndExit : Prop :=
  ∀ s : State,
    (s.asksFor s.cfg.sysno.heapBaseQ → Results s .ecall s.cfg.sysResReg s.cfg.heapBase) ∧
    (s.asksFor s.cfg.sysno.heapMaxQ → Results s .ecall s.cfg.sysResReg s.cfg.heapMax) ∧
    (s.asksFor s.cfg.sysno.exit →
      (commitAllowed s s.cfg.sysResReg 0 = true →
        ∃ t, exec .ecall s = .next t ∧ RegsCommitted s s.cfg.sysResReg 0 t ∧ PagesCommitted s s.cfg.sysResReg 0 t ∧
          Counted s (s.pc + 4) t ∧
          EngineKept { s with exitStatus := s.reg s.cfg.sysArgReg, finished := true } t ∧ Untouched s t ∧
          step t = .next t) ∧
      (commitAllowed s s.cfg.sysResReg 0 = false → exec .ecall s = .next (stopped s (.stackExhausted 0))))

/-- 45_system.md R212: an ECALL whose number, on all 64 bits, is no service's stops with UnknownService and has no
effect. -/
def Obligations.EcallUnknownService : Prop :=
  ∀ s : State,
    let n := s.reg s.cfg.sysNumReg
    let q := s.cfg.sysno
    n ∉ [q.printInt, q.printChar, q.printString, q.readInt, q.readChar, q.sbrk, q.heapBaseQ, q.heapMaxQ, q.exit] →
      exec .ecall s = .next (stopped s (.unknownService n))

/-- 60_exceptions.md R232, 40_execution_step.md R104, 45_system.md R200: where the result register is x2 and the result
breaks the stack rule, the ECALL stops with StackExhausted and has no effect but the output of PRINT_STRING: what PRINT_INT
or PRINT_CHAR would have written is not kept, and a READ consumes no input. That R232 settles the output, and that the input
counts as an effect, is read from the rules (log 14, DEDUCED). -/
def Obligations.EcallResultStops : Prop :=
  ∀ s : State,
    let res := s.cfg.sysResReg
    let stops (v : Word) (kept : List Byte) : Prop :=
      commitAllowed s res v = false → exec .ecall s = .next (stopped { s with output := s.output ++ kept } (.stackExhausted v))
    let arg := (s.reg s.cfg.sysArgReg).toNat
    (s.asksFor s.cfg.sysno.printInt ∨ s.asksFor s.cfg.sysno.printChar → stops 0 []) ∧
    (∀ n, s.asksFor s.cfg.sysno.printString → readable s arg (n + 1) = true →
      (∀ k, k < n → loadedByte s (arg + k) ≠ 0) → loadedByte s (arg + n) = 0 →
      stops 0 ((List.range n).map fun k => loadedByte s (arg + k))) ∧
    (∀ v vs, s.input = v :: vs →
      (s.asksFor s.cfg.sysno.readInt → stops v []) ∧
      (s.asksFor s.cfg.sysno.readChar → stops ((v.extractLsb' 0 8).setWidth 64) []))

/-! ### Launch -/

/-- 10_state.md R33, 70_reset_and_hazards.md R250-R252, R255: what a launch leaves, for every image, breakpoint table and
draw of the registers whose reset value is unspecified. -/
def Obligations.LaunchState : Prop :=
  ∀ (c : Config) (m : Memory) (bps : List Breakpoint) (draw : Vector Word 32),
    configOk c = true → m.wf c = true → ∃ t, launch c m bps draw = .next t ∧
      t.reg 0 = 0 ∧ t.reg 2#5 = c.stackTop ∧ (∀ r : Reg, r ≠ 0 → r ≠ 2#5 → t.reg r = draw.get r.toFin) ∧
      t.pc = c.entry ∧ t.fl.pc = c.entry ∧ t.dl = .bubble ∧ t.el = .bubble ∧ t.ml = .bubble ∧ t.wl = .bubble ∧
      t.mem = m ∧ t.heap = c.heapBase ∧ t.finished = false ∧ t.exitStatus = 0 ∧ t.stop = none ∧ t.hold = false ∧
      t.icount = 0 ∧ t.cycles = 0 ∧ t.output = [] ∧ t.input = [] ∧ t.cfg = c ∧ t.breakpoints = bps

/-- 00_scope.md R10, 70_reset_and_hazards.md R251, R254: a launch with bounds out of order or a misaligned entry does not
happen; a new launch keeps only the configuration and the breakpoint table. That it is refused under a name is the model's
choice (log 13). -/
def Obligations.RelaunchAndRejection : Prop :=
  (∀ (c : Config) (m : Memory) (bps : List Breakpoint) (draw : Vector Word 32),
    c.heapMax < c.heapBase ∨ c.stackTop < c.heapMax ∨ c.maxAddr < c.stackTop ∨ c.entry.toNat % 4 ≠ 0 →
      launch c m bps draw = .refused .launchRejected) ∧
  (∀ (s u : State) (m : Memory) (draw : Vector Word 32), u.cfg = s.cfg → u.breakpoints = s.breakpoints →
    s.relaunch m draw = u.relaunch m draw)

/-- The machine as reset leaves it meets every invariant below (10_state.md R33; the zeros of log 3 play no part). -/
def Obligations.InvariantsAtReset : Prop :=
  State.reset.memoryInv = true ∧ State.reset.heapInv = true ∧ State.reset.stackInv = true ∧
    State.reset.zeroInv = true ∧ State.reset.drawsInv = true ∧ State.reset.barrierInv = true ∧
    State.reset.recordsInv = true

/-- The same for every launch (00_scope.md R10): HEAP, the stack pointer, memory and the pipeline begin inside the
invariants; and the draws do where no two pages of the image share one (log 4). -/
def Obligations.InvariantsAtLaunch : Prop :=
  ∀ (c : Config) (m : Memory) (bps : List Breakpoint) (draw : Vector Word 32) (t : State),
    launch c m bps draw = .next t →
      t.memoryInv = true ∧ t.heapInv = true ∧ t.stackInv = true ∧ t.zeroInv = true ∧ t.barrierInv = true ∧
      t.recordsInv = true ∧ ((drawNumbers m.pages).Nodup → t.drawsInv = true)

/-! ### Invariants and whole-machine rules, in both modes -/

/-- Every step of either engine keeps the page table in its canonical form (20_memory.md R40, R42; log 5): bases are
multiples of PAGE below MAXADDR, rising, and every listed byte lies in a present page. -/
def Obligations.StepKeepsMemoryForm : Prop :=
  ∀ s t : State, s.memoryInv = true → step s = .next t → t.memoryInv = true

/-- Every step keeps HEAP in [HEAP_BASE, HEAP_MAX], the stack pointer in [HEAP_MAX, MAXADDR] and slot 0 of the register
file 0 (45_system.md R208, 40_execution_step.md R99, 10_state.md R20). -/
def Obligations.StepKeepsBounds : Prop :=
  ∀ s t : State, step s = .next t →
    (s.heapInv = true → t.heapInv = true) ∧ (s.stackInv = true → t.stackInv = true) ∧
    (s.zeroInv = true → t.zeroInv = true)

/-- 20_memory.md R43: no step removes a page or changes its base, permission bits or fill; a page appears only as the page
of a value committed to x2, or by an SBRK whose new break it meets; it is writable and not executable. That
pages are numbered by draws, which stay of their own, is the model's choice (log 4, DESIGN CHOICE). -/
def Obligations.PagesOnlyGrow : Prop :=
  ∀ s t : State, step s = .next t →
    (∀ a p, walk s.cfg s.mem a = some p → walk t.cfg t.mem a = some p) ∧
    (∀ a p, walk s.cfg s.mem a = none → walk t.cfg t.mem a = some p →
      p.writable = true ∧ p.executable = false ∧ p.base < s.cfg.maxAddr.toNat ∧
      (pageBase s.cfg a = pageBase s.cfg (t.reg 2#5).toNat ∨
        (s.heap.toNat < t.heap.toNat ∧ pageBase s.cfg a < t.heap.toNat ∧
          s.heap.toNat < pageBase s.cfg a + pageSize s.cfg))) ∧
    (s.drawsInv = true → t.drawsInv = true)

/-- 20_memory.md R45, R53, R57: no step of either engine changes a byte of a page that is not writable. -/
def Obligations.ReadOnlyPagesKeepTheirBytes : Prop :=
  ∀ (s t : State) (a : Nat) (p : Page), step s = .next t → walk s.cfg s.mem a = some p → p.writable = false →
    byteAt t.cfg t.mem a = byteAt s.cfg s.mem a

/-- 10_state.md R30, 45_system.md R201, 60_exceptions.md R240, R245: a step changes neither the configuration nor the
breakpoint table, takes no output back, invents no input, and counts at most one instruction. Every step has a next state:
no state stops the model itself. -/
def Obligations.StepIsTotalAndMonotone : Prop :=
  ∀ s : State, ∃ t, step s = .next t ∧ t.cfg = s.cfg ∧ t.breakpoints = s.breakpoints ∧ s.output <+: t.output ∧
    t.input <:+ s.input ∧ (t.icount = s.icount ∨ t.icount = s.icount + 1)

/-- 10_state.md R20, R22, 70_reset_and_hazards.md R282: a step of either engine writes at most one register, never x0, and
a step that writes one counts its instruction. -/
def Obligations.StepWritesAtMostOneRegister : Prop :=
  ∀ s t : State, step s = .next t →
    (∃ r : Reg, ∀ q, q ≠ r → t.reg q = s.reg q) ∧ t.reg 0 = 0 ∧
    ((∃ r, t.reg r ≠ s.reg r) → t.icount = s.icount + 1)

/-- 60_exceptions.md R232, 40_execution_step.md R104: in atomic mode a step that stops changes STOP only, but for console
output, which only PRINT_STRING keeps; the record names the instruction at the pc, and no later step does anything. -/
def Obligations.AtomicStopsArePrecise : Prop :=
  ∀ (s t : State) (p : Stop), s.cfg.mode = .atomic → s.stop = none → step s = .next t → t.stop = some p →
    p.instPc = s.pc ∧ { t with stop := none, output := s.output, resuming := s.resuming } = s ∧
    (t.output = s.output ∨ ∃ w, memFetch s.cfg s.mem s.pc = .ok w ∧ decode w = .instr .ecall ∧
      s.reg s.cfg.sysNumReg = s.cfg.sysno.printString) ∧
    step t = .next t

/-! ### The pipelined engine -/

/-- 70_reset_and_hazards.md R267, R275: every step keeps the barrier invariant: while an ECALL is in M nothing valid is in
E, and while it is in W nothing valid is in E or M. -/
def Obligations.StepKeepsBarrier : Prop :=
  ∀ s t : State, s.barrierInv = true → step s = .next t → t.barrierInv = true

/-- 30_encoding.md R82, 70_reset_and_hazards.md R256, R257, R262: every step keeps in E, M and W the whole decoded record of
one word, or NONE; that NONE is the record of zeros is the model's choice (log 15). -/
def Obligations.StepKeepsRecords : Prop :=
  ∀ s t : State, s.recordsInv = true → step s = .next t → t.recordsInv = true

/-- 70_reset_and_hazards.md R268, with R260-R262, R264, R267 and R269: the controller. In every cycle that ticks M takes all
that Execute gives of the instruction in E (a branch its outcome and target, a jump its link and target, a load or store its
address and data, any other its result or stop) and W takes M, a load with its data. A branch in E whose outcome is not the
prediction squashes D and E and corrects Fetch; else a load-use hazard or an ECALL in E, M or W holds F and D and bubbles E;
else a JALR in D enters E, sends Fetch to its target and bubbles D; else D enters E, the fetched word enters D, and Fetch
continues at the prediction. The operands E takes are OperandsAreForwarded's. That the record NONE of a tagged D is a record
of zeros is the model's choice (log 15). -/
def Obligations.ControllerTable : Prop :=
  ∀ s t : State, s.ticks t →
    let decoded : Prop := t.el.valid = true ∧ t.el.pc = s.dl.pc ∧ t.el.d = decodeRecord s.dl.raw ∧
      t.el.ptaken = s.dl.ptaken ∧ t.el.exc = none
    ExecuteHandsOn s t ∧ MemoryHandsOn s t ∧
    (s.squashes t →
      t.fl.pc = (if t.ml.taken then t.ml.target else s.el.pc + 4) ∧ t.dl = .bubble ∧ t.el = .bubble) ∧
    (¬s.squashes t → s.loadUseHazard ∨ s.syscallBarrier → t.fl = s.fl ∧ t.dl = s.dl ∧ t.el = .bubble) ∧
    (¬s.squashes t → ¬(s.loadUseHazard ∨ s.syscallBarrier) → s.jalrInDecode →
      (∀ rd rs1 imm, decode s.dl.raw = .instr (.jalr rd rs1 imm) →
        t.fl.pc = (t.el.a + imm.signExtend 64) &&& 0xFFFFFFFFFFFFFFFE) ∧
      t.dl = .bubble ∧ decoded) ∧
    (s.normalCycle t →
      (match memFetch s.cfg t.mem s.fl.pc with
        | .ok w => t.fl.pc = (predict s.cfg.bp s.fl.pc w).next ∧
          t.dl = { valid := true, pc := s.fl.pc, raw := w, ptaken := (predict s.cfg.bp s.fl.pc w).taken, exc := none }
        | .error e => t.fl.pc = s.fl.pc + 4 ∧
          t.dl = { valid := true, pc := s.fl.pc, raw := 0, ptaken := false, exc := some e }) ∧
      (s.dl.valid = false → t.el = .bubble) ∧
      (s.dl.valid = true → s.dl.exc ≠ none →
        t.el = { valid := true, pc := s.dl.pc, d := .nothing, a := 0, b := 0, ptaken := false, exc := s.dl.exc }) ∧
      (s.dl.valid = true → s.dl.exc = none → decoded))

/-- 70_reset_and_hazards.md R263, R282: the operand an instruction takes into E is the result of the instruction in E that
writes the register, else of the one in M, else the register file after this cycle's commit; x0 is 0. -/
def Obligations.OperandsAreForwarded : Prop :=
  ∀ (s t : State) (r : Reg), s.ticks t → t.el.valid = true → t.el.exc = none →
    let v : Word :=
      if r = 0 then 0
      else if s.el.valid = true ∧ s.el.exc = none ∧ s.el.d.sub.dest = some r then t.ml.value
      else if s.ml.valid = true ∧ s.ml.exc = none ∧ s.ml.d.sub.dest = some r then t.wl.value
      else t.reg r
    t.el.pc = s.dl.pc ∧ t.el.d = decodeRecord s.dl.raw ∧
    (t.el.d.sub.src1 = some r → t.el.a = v) ∧ (t.el.d.sub.src2 = some r → t.el.b = v) ∧
    (t.el.d.sub.src1 = none → t.el.a = 0) ∧ (t.el.d.sub.src2 = none → t.el.b = 0)

/-- 70_reset_and_hazards.md R265, R266, R277: a cycle in the controller's normal case fetches into D, at the F latch from
memory as this cycle's store left it, and continues at a JAL's target, a branch's target by the strategy of BP (offset 0 counts as
forward), and pc + 4 after everything else. -/
def Obligations.FetchPredicts : Prop :=
  ∀ (s t : State) (w : InstWord), s.normalCycle t → memFetch s.cfg t.mem s.fl.pc = .ok w →
    t.dl.valid = true ∧ t.dl.pc = s.fl.pc ∧ t.dl.raw = w ∧ t.dl.exc = none ∧
    (∀ rd off, decode w = .instr (.jal rd off) →
      t.dl.ptaken = true ∧ t.fl.pc = s.fl.pc + off.signExtend 64) ∧
    ((decode w).isBranch = true →
      t.dl.ptaken = (match s.cfg.bp with
        | .alwaysTaken => true
        | .ftbnt => !w.getLsbD 31
        | .btfnt => w.getLsbD 31) ∧
      t.fl.pc = s.fl.pc + if t.dl.ptaken then (fieldB w).signExtend 64 else 4) ∧
    ((decode w).isBranch = false → (decode w).isJal = false → t.dl.ptaken = false ∧ t.fl.pc = s.fl.pc + 4)

/-- 70_reset_and_hazards.md R272: CYCLES grows by one a cycle and by the latencies of what E, W, M and F did; a cycle that
stops adds 1, one that exits 1 + SYS_LAT, a paused or held one nothing. -/
def Obligations.CyclesCharge : Prop :=
  ∀ s t : State, s.cfg.mode = .pipelined → step s = .next t →
    (s.runs = false ∨ t.hold = true → t.cycles = s.cycles) ∧
    (s.runs = true → t.stop.isSome = true → t.cycles = s.cycles + 1) ∧
    (s.runs = true → t.finished = true → t.cycles = s.cycles + BitVec.ofNat 64 (1 + s.cfg.sysLat)) ∧
    (s.ticks t → t.cycles = s.cycles + BitVec.ofNat 64
      (1 + (if s.el.valid = true ∧ s.el.exc = none ∧ s.el.d.sub.isMulOp = true then s.cfg.mulLat else 0)
        + (if s.el.valid = true ∧ s.el.exc = none ∧ s.el.d.sub.isDivOp = true ∧ t.ml.exc = none then s.cfg.divLat
            else 0)
        + (if s.wl.valid = true ∧ s.wl.d.sub = .instr .ecall then s.cfg.sysLat else 0)
        + (if s.ml.valid = true ∧ s.ml.exc = none then
            match loadKindOf s.ml.d.sub, storeKindOf s.ml.d.sub with
            | some k, _ => memLatency s.cfg .read s.ml.addr k.bytes
            | none, some k => memLatency s.cfg .write s.ml.addr k.bytes
            | none, none => 0
          else 0)
        + (match memFetch s.cfg t.mem s.fl.pc with
            | .ok _ => memLatency s.cfg .fetch s.fl.pc 4
            | .error _ => 0)))

/-- 70_reset_and_hazards.md R276, 60_exceptions.md R232: a stop, a hold and EXIT leave every latch as it was at the start
of the cycle; a stop is recorded with the address of the instruction in W or in M. -/
def Obligations.PipelinedEndsKeepLatches : Prop :=
  ∀ s t : State, s.cfg.mode = .pipelined → s.runs = true → step s = .next t →
    (t.hold = true ∨ t.finished = true ∨ t.stop.isSome = true →
      t.fl = s.fl ∧ t.dl = s.dl ∧ t.el = s.el ∧ t.ml = s.ml ∧ t.wl = s.wl) ∧
    (∀ p, t.stop = some p →
      (s.wl.valid = true ∧ p.instPc = s.wl.pc ∧ t.icount = s.icount ∧ t.mem = s.mem ∧ t.regs = s.regs) ∨
      (s.ml.valid = true ∧ p.instPc = s.ml.pc))

/-- 70_reset_and_hazards.md R283, R276: a tag recorded before Writeback is raised when its instruction is in W: the run
stops there with its address, it is not counted, and nothing younger has an effect. The tag moves on with its instruction,
from D to E, from E to M and from M to W, where memory is as Writeback left it; and a fetch that stops tags D. -/
def Obligations.TaggedInstructionStopsInWriteback : Prop :=
  (∀ (s : State) (e : StopReason), s.cfg.mode = .pipelined → s.runs = true → s.wl.valid = true → s.wl.exc = some e →
    step s = .next { s with
      stop := some { reason := e, instPc := s.wl.pc }, cycles := s.cycles + 1, resuming := false }) ∧
  (∀ s t : State, s.ticks t → s.dl.valid = true → s.dl.exc.isSome = true → t.el.valid = true →
    t.el.exc = s.dl.exc ∧ t.el.d = .nothing) ∧
  (∀ s t : State, s.ticks t → s.el.valid = true → s.el.exc.isSome = true → t.ml.exc = s.el.exc) ∧
  (∀ s t : State, s.ticks t → s.ml.valid = true → s.ml.exc.isSome = true →
    t.wl = s.ml ∧ ∀ u b, wStage s = .goesOn u b → t.mem = u.mem) ∧
  (∀ (s t : State) (e : StopReason), s.normalCycle t → memFetch s.cfg t.mem s.fl.pc = .error e →
    t.dl.valid = true ∧ t.dl.pc = s.fl.pc ∧ t.dl.exc = some e)

/-- 70_reset_and_hazards.md R270, one cycle of it: another strategy BP gives the same registers, memory, counters, status,
streams and the same M and W latches; only F, D and E may differ. -/
def Obligations.PredictorHasNoArchitecturalEffect : Prop :=
  ∀ (s t u : State) (bp : BranchPrediction), step s = .next t → step { s with cfg := { s.cfg with bp := bp } } = .next u →
    SameArchitecture t u ∧ (s.cfg.mode = .pipelined → u.ml = t.ml ∧ u.wl = t.wl ∧ u.cycles = t.cycles)

/-- 70_reset_and_hazards.md R277: the first cycle after a launch in pipelined mode fetches the entry word into D, leaves E,
M and W bubbles and counts nothing. -/
def Obligations.WarmupCycle : Prop :=
  ∀ (c : Config) (m : Memory) (draw : Vector Word 32) (s : State) (w : InstWord),
    c.mode = .pipelined → launch c m [] draw = .next s → memFetch c m c.entry = .ok w →
    ∃ t, step s = .next t ∧ t.dl.valid = true ∧ t.dl.pc = c.entry ∧ t.dl.raw = w ∧ t.dl.exc = none ∧
      t.el.valid = false ∧ t.ml = .bubble ∧ t.wl = .bubble ∧ t.icount = 0 ∧ t.regs = s.regs ∧ t.mem = m ∧
      t.cycles = BitVec.ofNat 64 (1 + memLatency c .fetch c.entry 4)

/-- 70_reset_and_hazards.md R279, 00_scope.md R8, for one instruction: an instruction that is in E with its operands,
nothing else in flight, has after its three cycles (E, M, W) the registers, memory, status registers and console streams
that atomic mode gives it, its stop or hold included. -/
def Obligations.PipelineRunsInstruction : Prop :=
  ∀ (s : State) (i : Instr),
    s.cfg.mode = .pipelined → s.ended = false → s.hold = false → breakpointEnabled s.breakpoints s.pc = false →
    s.dl.valid = false → s.ml.valid = false → s.wl.valid = false →
    s.el.valid = true → s.el.pc = s.pc → s.el.d.sub = .instr i → s.el.exc = none →
    s.el.a = (match i.src1 with
      | some r => s.reg r
      | none => 0) →
    s.el.b = (match i.src2 with
      | some r => s.reg r
      | none => 0) →
    ∃ t1 t2 t3 t, step s = .next t1 ∧ step t1 = .next t2 ∧ step t2 = .next t3 ∧ exec i s = .next t ∧
      SameArchitecture t t3
end

