-- ==== Sys2Proof/Laws/State.lean ====
section
/-! SUPPORT. One lemma per field of the state per update of it, and the register reads of every update. -/

namespace Sys2Proof.Machine

/-! ### State.raise -/

@[simp] theorem State.raise_cfg (s : State) (e : StopReason) (p : Word) : (s.raise e p).cfg = s.cfg := rfl
@[simp] theorem State.raise_regs (s : State) (e : StopReason) (p : Word) : (s.raise e p).regs = s.regs := rfl
@[simp] theorem State.raise_pc (s : State) (e : StopReason) (p : Word) : (s.raise e p).pc = s.pc := rfl
@[simp] theorem State.raise_mem (s : State) (e : StopReason) (p : Word) : (s.raise e p).mem = s.mem := rfl
@[simp] theorem State.raise_heap (s : State) (e : StopReason) (p : Word) : (s.raise e p).heap = s.heap := rfl
@[simp] theorem State.raise_finished (s : State) (e : StopReason) (p : Word) : (s.raise e p).finished = s.finished := rfl
@[simp] theorem State.raise_exitStatus (s : State) (e : StopReason) (p : Word) : (s.raise e p).exitStatus = s.exitStatus := rfl
@[simp] theorem State.raise_stop (s : State) (e : StopReason) (p : Word) : (s.raise e p).stop = some { reason := e, instPc := p } := rfl
@[simp] theorem State.raise_hold (s : State) (e : StopReason) (p : Word) : (s.raise e p).hold = s.hold := rfl
@[simp] theorem State.raise_icount (s : State) (e : StopReason) (p : Word) : (s.raise e p).icount = s.icount := rfl
@[simp] theorem State.raise_cycles (s : State) (e : StopReason) (p : Word) : (s.raise e p).cycles = s.cycles := rfl
@[simp] theorem State.raise_output (s : State) (e : StopReason) (p : Word) : (s.raise e p).output = s.output := rfl
@[simp] theorem State.raise_input (s : State) (e : StopReason) (p : Word) : (s.raise e p).input = s.input := rfl
@[simp] theorem State.raise_breakpoints (s : State) (e : StopReason) (p : Word) : (s.raise e p).breakpoints = s.breakpoints := rfl
@[simp] theorem State.raise_resuming (s : State) (e : StopReason) (p : Word) : (s.raise e p).resuming = s.resuming := rfl
@[simp] theorem State.raise_draws (s : State) (e : StopReason) (p : Word) : (s.raise e p).draws = s.draws := rfl
@[simp] theorem State.raise_fl (s : State) (e : StopReason) (p : Word) : (s.raise e p).fl = s.fl := rfl
@[simp] theorem State.raise_dl (s : State) (e : StopReason) (p : Word) : (s.raise e p).dl = s.dl := rfl
@[simp] theorem State.raise_el (s : State) (e : StopReason) (p : Word) : (s.raise e p).el = s.el := rfl
@[simp] theorem State.raise_ml (s : State) (e : StopReason) (p : Word) : (s.raise e p).ml = s.ml := rfl
@[simp] theorem State.raise_wl (s : State) (e : StopReason) (p : Word) : (s.raise e p).wl = s.wl := rfl
@[simp] theorem State.raise_reg (s : State) (e : StopReason) (p : Word) (q : Reg) : (s.raise e p).reg q = s.reg q := rfl

/-! ### State.setMem -/

@[simp] theorem State.setMem_cfg (s : State) (m : Memory) : (s.setMem m).cfg = s.cfg := rfl
@[simp] theorem State.setMem_regs (s : State) (m : Memory) : (s.setMem m).regs = s.regs := rfl
@[simp] theorem State.setMem_pc (s : State) (m : Memory) : (s.setMem m).pc = s.pc := rfl
@[simp] theorem State.setMem_mem (s : State) (m : Memory) : (s.setMem m).mem = m := rfl
@[simp] theorem State.setMem_heap (s : State) (m : Memory) : (s.setMem m).heap = s.heap := rfl
@[simp] theorem State.setMem_finished (s : State) (m : Memory) : (s.setMem m).finished = s.finished := rfl
@[simp] theorem State.setMem_exitStatus (s : State) (m : Memory) : (s.setMem m).exitStatus = s.exitStatus := rfl
@[simp] theorem State.setMem_stop (s : State) (m : Memory) : (s.setMem m).stop = s.stop := rfl
@[simp] theorem State.setMem_hold (s : State) (m : Memory) : (s.setMem m).hold = s.hold := rfl
@[simp] theorem State.setMem_icount (s : State) (m : Memory) : (s.setMem m).icount = s.icount := rfl
@[simp] theorem State.setMem_cycles (s : State) (m : Memory) : (s.setMem m).cycles = s.cycles := rfl
@[simp] theorem State.setMem_output (s : State) (m : Memory) : (s.setMem m).output = s.output := rfl
@[simp] theorem State.setMem_input (s : State) (m : Memory) : (s.setMem m).input = s.input := rfl
@[simp] theorem State.setMem_breakpoints (s : State) (m : Memory) : (s.setMem m).breakpoints = s.breakpoints := rfl
@[simp] theorem State.setMem_resuming (s : State) (m : Memory) : (s.setMem m).resuming = s.resuming := rfl
@[simp] theorem State.setMem_draws (s : State) (m : Memory) : (s.setMem m).draws = s.draws := rfl
@[simp] theorem State.setMem_fl (s : State) (m : Memory) : (s.setMem m).fl = s.fl := rfl
@[simp] theorem State.setMem_dl (s : State) (m : Memory) : (s.setMem m).dl = s.dl := rfl
@[simp] theorem State.setMem_el (s : State) (m : Memory) : (s.setMem m).el = s.el := rfl
@[simp] theorem State.setMem_ml (s : State) (m : Memory) : (s.setMem m).ml = s.ml := rfl
@[simp] theorem State.setMem_wl (s : State) (m : Memory) : (s.setMem m).wl = s.wl := rfl
@[simp] theorem State.setMem_reg (s : State) (m : Memory) (q : Reg) : (s.setMem m).reg q = s.reg q := rfl

/-! ### State.retire -/

@[simp] theorem State.retire_cfg (s : State) (p : Word) : (s.retire p).cfg = s.cfg := rfl
@[simp] theorem State.retire_regs (s : State) (p : Word) : (s.retire p).regs = s.regs := rfl
@[simp] theorem State.retire_pc (s : State) (p : Word) : (s.retire p).pc = p := rfl
@[simp] theorem State.retire_mem (s : State) (p : Word) : (s.retire p).mem = s.mem := rfl
@[simp] theorem State.retire_heap (s : State) (p : Word) : (s.retire p).heap = s.heap := rfl
@[simp] theorem State.retire_finished (s : State) (p : Word) : (s.retire p).finished = s.finished := rfl
@[simp] theorem State.retire_exitStatus (s : State) (p : Word) : (s.retire p).exitStatus = s.exitStatus := rfl
@[simp] theorem State.retire_stop (s : State) (p : Word) : (s.retire p).stop = s.stop := rfl
@[simp] theorem State.retire_hold (s : State) (p : Word) : (s.retire p).hold = s.hold := rfl
@[simp] theorem State.retire_icount (s : State) (p : Word) : (s.retire p).icount = s.icount + 1 := rfl
@[simp] theorem State.retire_cycles (s : State) (p : Word) : (s.retire p).cycles = s.cycles := rfl
@[simp] theorem State.retire_output (s : State) (p : Word) : (s.retire p).output = s.output := rfl
@[simp] theorem State.retire_input (s : State) (p : Word) : (s.retire p).input = s.input := rfl
@[simp] theorem State.retire_breakpoints (s : State) (p : Word) : (s.retire p).breakpoints = s.breakpoints := rfl
@[simp] theorem State.retire_resuming (s : State) (p : Word) : (s.retire p).resuming = s.resuming := rfl
@[simp] theorem State.retire_draws (s : State) (p : Word) : (s.retire p).draws = s.draws := rfl
@[simp] theorem State.retire_fl (s : State) (p : Word) : (s.retire p).fl = s.fl := rfl
@[simp] theorem State.retire_dl (s : State) (p : Word) : (s.retire p).dl = s.dl := rfl
@[simp] theorem State.retire_el (s : State) (p : Word) : (s.retire p).el = s.el := rfl
@[simp] theorem State.retire_ml (s : State) (p : Word) : (s.retire p).ml = s.ml := rfl
@[simp] theorem State.retire_wl (s : State) (p : Word) : (s.retire p).wl = s.wl := rfl
@[simp] theorem State.retire_reg (s : State) (p : Word) (q : Reg) : (s.retire p).reg q = s.reg q := rfl

/-! ### State.emit -/

@[simp] theorem State.emit_cfg (s : State) (bs : List Byte) : (s.emit bs).cfg = s.cfg := rfl
@[simp] theorem State.emit_regs (s : State) (bs : List Byte) : (s.emit bs).regs = s.regs := rfl
@[simp] theorem State.emit_pc (s : State) (bs : List Byte) : (s.emit bs).pc = s.pc := rfl
@[simp] theorem State.emit_mem (s : State) (bs : List Byte) : (s.emit bs).mem = s.mem := rfl
@[simp] theorem State.emit_heap (s : State) (bs : List Byte) : (s.emit bs).heap = s.heap := rfl
@[simp] theorem State.emit_finished (s : State) (bs : List Byte) : (s.emit bs).finished = s.finished := rfl
@[simp] theorem State.emit_exitStatus (s : State) (bs : List Byte) : (s.emit bs).exitStatus = s.exitStatus := rfl
@[simp] theorem State.emit_stop (s : State) (bs : List Byte) : (s.emit bs).stop = s.stop := rfl
@[simp] theorem State.emit_hold (s : State) (bs : List Byte) : (s.emit bs).hold = s.hold := rfl
@[simp] theorem State.emit_icount (s : State) (bs : List Byte) : (s.emit bs).icount = s.icount := rfl
@[simp] theorem State.emit_cycles (s : State) (bs : List Byte) : (s.emit bs).cycles = s.cycles := rfl
@[simp] theorem State.emit_output (s : State) (bs : List Byte) : (s.emit bs).output = s.output ++ bs := rfl
@[simp] theorem State.emit_input (s : State) (bs : List Byte) : (s.emit bs).input = s.input := rfl
@[simp] theorem State.emit_breakpoints (s : State) (bs : List Byte) : (s.emit bs).breakpoints = s.breakpoints := rfl
@[simp] theorem State.emit_resuming (s : State) (bs : List Byte) : (s.emit bs).resuming = s.resuming := rfl
@[simp] theorem State.emit_draws (s : State) (bs : List Byte) : (s.emit bs).draws = s.draws := rfl
@[simp] theorem State.emit_fl (s : State) (bs : List Byte) : (s.emit bs).fl = s.fl := rfl
@[simp] theorem State.emit_dl (s : State) (bs : List Byte) : (s.emit bs).dl = s.dl := rfl
@[simp] theorem State.emit_el (s : State) (bs : List Byte) : (s.emit bs).el = s.el := rfl
@[simp] theorem State.emit_ml (s : State) (bs : List Byte) : (s.emit bs).ml = s.ml := rfl
@[simp] theorem State.emit_wl (s : State) (bs : List Byte) : (s.emit bs).wl = s.wl := rfl
@[simp] theorem State.emit_reg (s : State) (bs : List Byte) (q : Reg) : (s.emit bs).reg q = s.reg q := rfl

/-! ### State.holdForInput -/

@[simp] theorem State.holdForInput_cfg (s : State) : (s.holdForInput).cfg = s.cfg := rfl
@[simp] theorem State.holdForInput_regs (s : State) : (s.holdForInput).regs = s.regs := rfl
@[simp] theorem State.holdForInput_pc (s : State) : (s.holdForInput).pc = s.pc := rfl
@[simp] theorem State.holdForInput_mem (s : State) : (s.holdForInput).mem = s.mem := rfl
@[simp] theorem State.holdForInput_heap (s : State) : (s.holdForInput).heap = s.heap := rfl
@[simp] theorem State.holdForInput_finished (s : State) : (s.holdForInput).finished = s.finished := rfl
@[simp] theorem State.holdForInput_exitStatus (s : State) : (s.holdForInput).exitStatus = s.exitStatus := rfl
@[simp] theorem State.holdForInput_stop (s : State) : (s.holdForInput).stop = s.stop := rfl
@[simp] theorem State.holdForInput_hold (s : State) : (s.holdForInput).hold = true := rfl
@[simp] theorem State.holdForInput_icount (s : State) : (s.holdForInput).icount = s.icount := rfl
@[simp] theorem State.holdForInput_cycles (s : State) : (s.holdForInput).cycles = s.cycles := rfl
@[simp] theorem State.holdForInput_output (s : State) : (s.holdForInput).output = s.output := rfl
@[simp] theorem State.holdForInput_input (s : State) : (s.holdForInput).input = s.input := rfl
@[simp] theorem State.holdForInput_breakpoints (s : State) : (s.holdForInput).breakpoints = s.breakpoints := rfl
@[simp] theorem State.holdForInput_resuming (s : State) : (s.holdForInput).resuming = s.resuming := rfl
@[simp] theorem State.holdForInput_draws (s : State) : (s.holdForInput).draws = s.draws := rfl
@[simp] theorem State.holdForInput_fl (s : State) : (s.holdForInput).fl = s.fl := rfl
@[simp] theorem State.holdForInput_dl (s : State) : (s.holdForInput).dl = s.dl := rfl
@[simp] theorem State.holdForInput_el (s : State) : (s.holdForInput).el = s.el := rfl
@[simp] theorem State.holdForInput_ml (s : State) : (s.holdForInput).ml = s.ml := rfl
@[simp] theorem State.holdForInput_wl (s : State) : (s.holdForInput).wl = s.wl := rfl
@[simp] theorem State.holdForInput_reg (s : State) (q : Reg) : (s.holdForInput).reg q = s.reg q := rfl

/-! ### State.supplyInput -/

@[simp] theorem State.supplyInput_cfg (s : State) (vs : List Word) : (s.supplyInput vs).cfg = s.cfg := rfl
@[simp] theorem State.supplyInput_regs (s : State) (vs : List Word) : (s.supplyInput vs).regs = s.regs := rfl
@[simp] theorem State.supplyInput_pc (s : State) (vs : List Word) : (s.supplyInput vs).pc = s.pc := rfl
@[simp] theorem State.supplyInput_mem (s : State) (vs : List Word) : (s.supplyInput vs).mem = s.mem := rfl
@[simp] theorem State.supplyInput_heap (s : State) (vs : List Word) : (s.supplyInput vs).heap = s.heap := rfl
@[simp] theorem State.supplyInput_finished (s : State) (vs : List Word) : (s.supplyInput vs).finished = s.finished := rfl
@[simp] theorem State.supplyInput_exitStatus (s : State) (vs : List Word) : (s.supplyInput vs).exitStatus = s.exitStatus := rfl
@[simp] theorem State.supplyInput_stop (s : State) (vs : List Word) : (s.supplyInput vs).stop = s.stop := rfl
@[simp] theorem State.supplyInput_hold (s : State) (vs : List Word) : (s.supplyInput vs).hold = false := rfl
@[simp] theorem State.supplyInput_icount (s : State) (vs : List Word) : (s.supplyInput vs).icount = s.icount := rfl
@[simp] theorem State.supplyInput_cycles (s : State) (vs : List Word) : (s.supplyInput vs).cycles = s.cycles := rfl
@[simp] theorem State.supplyInput_output (s : State) (vs : List Word) : (s.supplyInput vs).output = s.output := rfl
@[simp] theorem State.supplyInput_input (s : State) (vs : List Word) : (s.supplyInput vs).input = s.input ++ vs := rfl
@[simp] theorem State.supplyInput_breakpoints (s : State) (vs : List Word) : (s.supplyInput vs).breakpoints = s.breakpoints := rfl
@[simp] theorem State.supplyInput_resuming (s : State) (vs : List Word) : (s.supplyInput vs).resuming = s.resuming := rfl
@[simp] theorem State.supplyInput_draws (s : State) (vs : List Word) : (s.supplyInput vs).draws = s.draws := rfl
@[simp] theorem State.supplyInput_fl (s : State) (vs : List Word) : (s.supplyInput vs).fl = s.fl := rfl
@[simp] theorem State.supplyInput_dl (s : State) (vs : List Word) : (s.supplyInput vs).dl = s.dl := rfl
@[simp] theorem State.supplyInput_el (s : State) (vs : List Word) : (s.supplyInput vs).el = s.el := rfl
@[simp] theorem State.supplyInput_ml (s : State) (vs : List Word) : (s.supplyInput vs).ml = s.ml := rfl
@[simp] theorem State.supplyInput_wl (s : State) (vs : List Word) : (s.supplyInput vs).wl = s.wl := rfl
@[simp] theorem State.supplyInput_reg (s : State) (vs : List Word) (q : Reg) : (s.supplyInput vs).reg q = s.reg q := rfl

/-! ### State.pause -/

@[simp] theorem State.pause_cfg (s : State) : (s.pause).cfg = s.cfg := rfl
@[simp] theorem State.pause_regs (s : State) : (s.pause).regs = s.regs := rfl
@[simp] theorem State.pause_pc (s : State) : (s.pause).pc = s.pc := rfl
@[simp] theorem State.pause_mem (s : State) : (s.pause).mem = s.mem := rfl
@[simp] theorem State.pause_heap (s : State) : (s.pause).heap = s.heap := rfl
@[simp] theorem State.pause_finished (s : State) : (s.pause).finished = s.finished := rfl
@[simp] theorem State.pause_exitStatus (s : State) : (s.pause).exitStatus = s.exitStatus := rfl
@[simp] theorem State.pause_stop (s : State) : (s.pause).stop = s.stop := rfl
@[simp] theorem State.pause_hold (s : State) : (s.pause).hold = s.hold := rfl
@[simp] theorem State.pause_icount (s : State) : (s.pause).icount = s.icount := rfl
@[simp] theorem State.pause_cycles (s : State) : (s.pause).cycles = s.cycles := rfl
@[simp] theorem State.pause_output (s : State) : (s.pause).output = s.output := rfl
@[simp] theorem State.pause_input (s : State) : (s.pause).input = s.input := rfl
@[simp] theorem State.pause_breakpoints (s : State) : (s.pause).breakpoints = s.breakpoints := rfl
@[simp] theorem State.pause_resuming (s : State) : (s.pause).resuming = true := rfl
@[simp] theorem State.pause_draws (s : State) : (s.pause).draws = s.draws := rfl
@[simp] theorem State.pause_fl (s : State) : (s.pause).fl = s.fl := rfl
@[simp] theorem State.pause_dl (s : State) : (s.pause).dl = s.dl := rfl
@[simp] theorem State.pause_el (s : State) : (s.pause).el = s.el := rfl
@[simp] theorem State.pause_ml (s : State) : (s.pause).ml = s.ml := rfl
@[simp] theorem State.pause_wl (s : State) : (s.pause).wl = s.wl := rfl
@[simp] theorem State.pause_reg (s : State) (q : Reg) : (s.pause).reg q = s.reg q := rfl

/-! ### State.endResume -/

@[simp] theorem State.endResume_cfg (s : State) : (s.endResume).cfg = s.cfg := rfl
@[simp] theorem State.endResume_regs (s : State) : (s.endResume).regs = s.regs := rfl
@[simp] theorem State.endResume_pc (s : State) : (s.endResume).pc = s.pc := rfl
@[simp] theorem State.endResume_mem (s : State) : (s.endResume).mem = s.mem := rfl
@[simp] theorem State.endResume_heap (s : State) : (s.endResume).heap = s.heap := rfl
@[simp] theorem State.endResume_finished (s : State) : (s.endResume).finished = s.finished := rfl
@[simp] theorem State.endResume_exitStatus (s : State) : (s.endResume).exitStatus = s.exitStatus := rfl
@[simp] theorem State.endResume_stop (s : State) : (s.endResume).stop = s.stop := rfl
@[simp] theorem State.endResume_hold (s : State) : (s.endResume).hold = s.hold := rfl
@[simp] theorem State.endResume_icount (s : State) : (s.endResume).icount = s.icount := rfl
@[simp] theorem State.endResume_cycles (s : State) : (s.endResume).cycles = s.cycles := rfl
@[simp] theorem State.endResume_output (s : State) : (s.endResume).output = s.output := rfl
@[simp] theorem State.endResume_input (s : State) : (s.endResume).input = s.input := rfl
@[simp] theorem State.endResume_breakpoints (s : State) : (s.endResume).breakpoints = s.breakpoints := rfl
@[simp] theorem State.endResume_resuming (s : State) : (s.endResume).resuming = (s.resuming && s.hold) := rfl
@[simp] theorem State.endResume_draws (s : State) : (s.endResume).draws = s.draws := rfl
@[simp] theorem State.endResume_fl (s : State) : (s.endResume).fl = s.fl := rfl
@[simp] theorem State.endResume_dl (s : State) : (s.endResume).dl = s.dl := rfl
@[simp] theorem State.endResume_el (s : State) : (s.endResume).el = s.el := rfl
@[simp] theorem State.endResume_ml (s : State) : (s.endResume).ml = s.ml := rfl
@[simp] theorem State.endResume_wl (s : State) : (s.endResume).wl = s.wl := rfl
@[simp] theorem State.endResume_reg (s : State) (q : Reg) : (s.endResume).reg q = s.reg q := rfl

/-! ### State.count -/

@[simp] theorem State.count_cfg (s : State) : (s.count).cfg = s.cfg := rfl
@[simp] theorem State.count_regs (s : State) : (s.count).regs = s.regs := rfl
@[simp] theorem State.count_pc (s : State) : (s.count).pc = s.pc := rfl
@[simp] theorem State.count_mem (s : State) : (s.count).mem = s.mem := rfl
@[simp] theorem State.count_heap (s : State) : (s.count).heap = s.heap := rfl
@[simp] theorem State.count_finished (s : State) : (s.count).finished = s.finished := rfl
@[simp] theorem State.count_exitStatus (s : State) : (s.count).exitStatus = s.exitStatus := rfl
@[simp] theorem State.count_stop (s : State) : (s.count).stop = s.stop := rfl
@[simp] theorem State.count_hold (s : State) : (s.count).hold = s.hold := rfl
@[simp] theorem State.count_icount (s : State) : (s.count).icount = s.icount + 1 := rfl
@[simp] theorem State.count_cycles (s : State) : (s.count).cycles = s.cycles := rfl
@[simp] theorem State.count_output (s : State) : (s.count).output = s.output := rfl
@[simp] theorem State.count_input (s : State) : (s.count).input = s.input := rfl
@[simp] theorem State.count_breakpoints (s : State) : (s.count).breakpoints = s.breakpoints := rfl
@[simp] theorem State.count_resuming (s : State) : (s.count).resuming = s.resuming := rfl
@[simp] theorem State.count_draws (s : State) : (s.count).draws = s.draws := rfl
@[simp] theorem State.count_fl (s : State) : (s.count).fl = s.fl := rfl
@[simp] theorem State.count_dl (s : State) : (s.count).dl = s.dl := rfl
@[simp] theorem State.count_el (s : State) : (s.count).el = s.el := rfl
@[simp] theorem State.count_ml (s : State) : (s.count).ml = s.ml := rfl
@[simp] theorem State.count_wl (s : State) : (s.count).wl = s.wl := rfl
@[simp] theorem State.count_reg (s : State) (q : Reg) : (s.count).reg q = s.reg q := rfl

/-! ### State.addCycles -/

@[simp] theorem State.addCycles_cfg (s : State) (n : Nat) : (s.addCycles n).cfg = s.cfg := rfl
@[simp] theorem State.addCycles_regs (s : State) (n : Nat) : (s.addCycles n).regs = s.regs := rfl
@[simp] theorem State.addCycles_pc (s : State) (n : Nat) : (s.addCycles n).pc = s.pc := rfl
@[simp] theorem State.addCycles_mem (s : State) (n : Nat) : (s.addCycles n).mem = s.mem := rfl
@[simp] theorem State.addCycles_heap (s : State) (n : Nat) : (s.addCycles n).heap = s.heap := rfl
@[simp] theorem State.addCycles_finished (s : State) (n : Nat) : (s.addCycles n).finished = s.finished := rfl
@[simp] theorem State.addCycles_exitStatus (s : State) (n : Nat) : (s.addCycles n).exitStatus = s.exitStatus := rfl
@[simp] theorem State.addCycles_stop (s : State) (n : Nat) : (s.addCycles n).stop = s.stop := rfl
@[simp] theorem State.addCycles_hold (s : State) (n : Nat) : (s.addCycles n).hold = s.hold := rfl
@[simp] theorem State.addCycles_icount (s : State) (n : Nat) : (s.addCycles n).icount = s.icount := rfl
@[simp] theorem State.addCycles_cycles (s : State) (n : Nat) : (s.addCycles n).cycles = s.cycles + BitVec.ofNat 64 n := rfl
@[simp] theorem State.addCycles_output (s : State) (n : Nat) : (s.addCycles n).output = s.output := rfl
@[simp] theorem State.addCycles_input (s : State) (n : Nat) : (s.addCycles n).input = s.input := rfl
@[simp] theorem State.addCycles_breakpoints (s : State) (n : Nat) : (s.addCycles n).breakpoints = s.breakpoints := rfl
@[simp] theorem State.addCycles_resuming (s : State) (n : Nat) : (s.addCycles n).resuming = s.resuming := rfl
@[simp] theorem State.addCycles_draws (s : State) (n : Nat) : (s.addCycles n).draws = s.draws := rfl
@[simp] theorem State.addCycles_fl (s : State) (n : Nat) : (s.addCycles n).fl = s.fl := rfl
@[simp] theorem State.addCycles_dl (s : State) (n : Nat) : (s.addCycles n).dl = s.dl := rfl
@[simp] theorem State.addCycles_el (s : State) (n : Nat) : (s.addCycles n).el = s.el := rfl
@[simp] theorem State.addCycles_ml (s : State) (n : Nat) : (s.addCycles n).ml = s.ml := rfl
@[simp] theorem State.addCycles_wl (s : State) (n : Nat) : (s.addCycles n).wl = s.wl := rfl
@[simp] theorem State.addCycles_reg (s : State) (n : Nat) (q : Reg) : (s.addCycles n).reg q = s.reg q := rfl

/-! ### State.setReg -/

@[simp] theorem State.setReg_cfg (s : State) (r : Reg) (v : Word) : (s.setReg r v).cfg = s.cfg := by
  unfold State.setReg; split <;> rfl
@[simp] theorem State.setReg_pc (s : State) (r : Reg) (v : Word) : (s.setReg r v).pc = s.pc := by
  unfold State.setReg; split <;> rfl
@[simp] theorem State.setReg_mem (s : State) (r : Reg) (v : Word) : (s.setReg r v).mem = s.mem := by
  unfold State.setReg; split <;> rfl
@[simp] theorem State.setReg_heap (s : State) (r : Reg) (v : Word) : (s.setReg r v).heap = s.heap := by
  unfold State.setReg; split <;> rfl
@[simp] theorem State.setReg_finished (s : State) (r : Reg) (v : Word) : (s.setReg r v).finished = s.finished := by
  unfold State.setReg; split <;> rfl
@[simp] theorem State.setReg_exitStatus (s : State) (r : Reg) (v : Word) : (s.setReg r v).exitStatus = s.exitStatus := by
  unfold State.setReg; split <;> rfl
@[simp] theorem State.setReg_stop (s : State) (r : Reg) (v : Word) : (s.setReg r v).stop = s.stop := by
  unfold State.setReg; split <;> rfl
@[simp] theorem State.setReg_hold (s : State) (r : Reg) (v : Word) : (s.setReg r v).hold = s.hold := by
  unfold State.setReg; split <;> rfl
@[simp] theorem State.setReg_icount (s : State) (r : Reg) (v : Word) : (s.setReg r v).icount = s.icount := by
  unfold State.setReg; split <;> rfl
@[simp] theorem State.setReg_cycles (s : State) (r : Reg) (v : Word) : (s.setReg r v).cycles = s.cycles := by
  unfold State.setReg; split <;> rfl
@[simp] theorem State.setReg_output (s : State) (r : Reg) (v : Word) : (s.setReg r v).output = s.output := by
  unfold State.setReg; split <;> rfl
@[simp] theorem State.setReg_input (s : State) (r : Reg) (v : Word) : (s.setReg r v).input = s.input := by
  unfold State.setReg; split <;> rfl
@[simp] theorem State.setReg_breakpoints (s : State) (r : Reg) (v : Word) : (s.setReg r v).breakpoints = s.breakpoints := by
  unfold State.setReg; split <;> rfl
@[simp] theorem State.setReg_resuming (s : State) (r : Reg) (v : Word) : (s.setReg r v).resuming = s.resuming := by
  unfold State.setReg; split <;> rfl
@[simp] theorem State.setReg_draws (s : State) (r : Reg) (v : Word) : (s.setReg r v).draws = s.draws := by
  unfold State.setReg; split <;> rfl
@[simp] theorem State.setReg_fl (s : State) (r : Reg) (v : Word) : (s.setReg r v).fl = s.fl := by
  unfold State.setReg; split <;> rfl
@[simp] theorem State.setReg_dl (s : State) (r : Reg) (v : Word) : (s.setReg r v).dl = s.dl := by
  unfold State.setReg; split <;> rfl
@[simp] theorem State.setReg_el (s : State) (r : Reg) (v : Word) : (s.setReg r v).el = s.el := by
  unfold State.setReg; split <;> rfl
@[simp] theorem State.setReg_ml (s : State) (r : Reg) (v : Word) : (s.setReg r v).ml = s.ml := by
  unfold State.setReg; split <;> rfl
@[simp] theorem State.setReg_wl (s : State) (r : Reg) (v : Word) : (s.setReg r v).wl = s.wl := by
  unfold State.setReg; split <;> rfl

/-- A read of the register just written: 0 for x0 (10_state.md R20). -/
@[simp] theorem State.setReg_reg_self (s : State) (r : Reg) (v : Word) :
    (s.setReg r v).reg r = if r = 0 then 0 else v := by
  by_cases h : r = 0
  · simp only [State.reg, if_pos h]
  · simp only [State.setReg, State.reg, if_neg h]
    exact Vector.getElem_set_self _

/-- A read of any other register. -/
theorem State.setReg_reg_other (s : State) (r q : Reg) (v : Word) (h : q ≠ r) : (s.setReg r v).reg q = s.reg q := by
  by_cases hr : r = 0
  · simp only [State.setReg, if_pos hr]
  · by_cases hq : q = 0
    · simp only [State.reg, if_pos hq]
    · simp only [State.setReg, State.reg, if_neg hr, if_neg hq]
      exact Vector.getElem_set_ne _ _ fun c => h (BitVec.eq_of_toNat_eq c).symm

/-! ### State.alloc -/

@[simp] theorem State.alloc_cfg (s : State) (p : Nat) (w x : Bool) : (s.alloc p w x).cfg = s.cfg := by
  unfold State.alloc; split <;> [split <;> rfl; rfl]
@[simp] theorem State.alloc_regs (s : State) (p : Nat) (w x : Bool) : (s.alloc p w x).regs = s.regs := by
  unfold State.alloc; split <;> [split <;> rfl; rfl]
@[simp] theorem State.alloc_pc (s : State) (p : Nat) (w x : Bool) : (s.alloc p w x).pc = s.pc := by
  unfold State.alloc; split <;> [split <;> rfl; rfl]
@[simp] theorem State.alloc_heap (s : State) (p : Nat) (w x : Bool) : (s.alloc p w x).heap = s.heap := by
  unfold State.alloc; split <;> [split <;> rfl; rfl]
@[simp] theorem State.alloc_finished (s : State) (p : Nat) (w x : Bool) : (s.alloc p w x).finished = s.finished := by
  unfold State.alloc; split <;> [split <;> rfl; rfl]
@[simp] theorem State.alloc_exitStatus (s : State) (p : Nat) (w x : Bool) : (s.alloc p w x).exitStatus = s.exitStatus := by
  unfold State.alloc; split <;> [split <;> rfl; rfl]
@[simp] theorem State.alloc_stop (s : State) (p : Nat) (w x : Bool) : (s.alloc p w x).stop = s.stop := by
  unfold State.alloc; split <;> [split <;> rfl; rfl]
@[simp] theorem State.alloc_hold (s : State) (p : Nat) (w x : Bool) : (s.alloc p w x).hold = s.hold := by
  unfold State.alloc; split <;> [split <;> rfl; rfl]
@[simp] theorem State.alloc_icount (s : State) (p : Nat) (w x : Bool) : (s.alloc p w x).icount = s.icount := by
  unfold State.alloc; split <;> [split <;> rfl; rfl]
@[simp] theorem State.alloc_cycles (s : State) (p : Nat) (w x : Bool) : (s.alloc p w x).cycles = s.cycles := by
  unfold State.alloc; split <;> [split <;> rfl; rfl]
@[simp] theorem State.alloc_output (s : State) (p : Nat) (w x : Bool) : (s.alloc p w x).output = s.output := by
  unfold State.alloc; split <;> [split <;> rfl; rfl]
@[simp] theorem State.alloc_input (s : State) (p : Nat) (w x : Bool) : (s.alloc p w x).input = s.input := by
  unfold State.alloc; split <;> [split <;> rfl; rfl]
@[simp] theorem State.alloc_breakpoints (s : State) (p : Nat) (w x : Bool) : (s.alloc p w x).breakpoints = s.breakpoints := by
  unfold State.alloc; split <;> [split <;> rfl; rfl]
@[simp] theorem State.alloc_resuming (s : State) (p : Nat) (w x : Bool) : (s.alloc p w x).resuming = s.resuming := by
  unfold State.alloc; split <;> [split <;> rfl; rfl]
@[simp] theorem State.alloc_fl (s : State) (p : Nat) (w x : Bool) : (s.alloc p w x).fl = s.fl := by
  unfold State.alloc; split <;> [split <;> rfl; rfl]
@[simp] theorem State.alloc_dl (s : State) (p : Nat) (w x : Bool) : (s.alloc p w x).dl = s.dl := by
  unfold State.alloc; split <;> [split <;> rfl; rfl]
@[simp] theorem State.alloc_el (s : State) (p : Nat) (w x : Bool) : (s.alloc p w x).el = s.el := by
  unfold State.alloc; split <;> [split <;> rfl; rfl]
@[simp] theorem State.alloc_ml (s : State) (p : Nat) (w x : Bool) : (s.alloc p w x).ml = s.ml := by
  unfold State.alloc; split <;> [split <;> rfl; rfl]
@[simp] theorem State.alloc_wl (s : State) (p : Nat) (w x : Bool) : (s.alloc p w x).wl = s.wl := by
  unfold State.alloc; split <;> [split <;> rfl; rfl]
@[simp] theorem State.alloc_reg (s : State) (p : Nat) (w x : Bool) (q : Reg) : (s.alloc p w x).reg q = s.reg q := by
  unfold State.reg; rw [State.alloc_regs]

/-! ### State.allocPages -/

@[simp] theorem State.allocPages_cfg (n p : Nat) (s : State) : (State.allocPages n p s).cfg = s.cfg := by
  induction n generalizing p s with
  | zero => rfl
  | succ n ih => rw [State.allocPages, ih, State.alloc_cfg]
@[simp] theorem State.allocPages_regs (n p : Nat) (s : State) : (State.allocPages n p s).regs = s.regs := by
  induction n generalizing p s with
  | zero => rfl
  | succ n ih => rw [State.allocPages, ih, State.alloc_regs]
@[simp] theorem State.allocPages_pc (n p : Nat) (s : State) : (State.allocPages n p s).pc = s.pc := by
  induction n generalizing p s with
  | zero => rfl
  | succ n ih => rw [State.allocPages, ih, State.alloc_pc]
@[simp] theorem State.allocPages_heap (n p : Nat) (s : State) : (State.allocPages n p s).heap = s.heap := by
  induction n generalizing p s with
  | zero => rfl
  | succ n ih => rw [State.allocPages, ih, State.alloc_heap]
@[simp] theorem State.allocPages_finished (n p : Nat) (s : State) : (State.allocPages n p s).finished = s.finished := by
  induction n generalizing p s with
  | zero => rfl
  | succ n ih => rw [State.allocPages, ih, State.alloc_finished]
@[simp] theorem State.allocPages_exitStatus (n p : Nat) (s : State) : (State.allocPages n p s).exitStatus = s.exitStatus := by
  induction n generalizing p s with
  | zero => rfl
  | succ n ih => rw [State.allocPages, ih, State.alloc_exitStatus]
@[simp] theorem State.allocPages_stop (n p : Nat) (s : State) : (State.allocPages n p s).stop = s.stop := by
  induction n generalizing p s with
  | zero => rfl
  | succ n ih => rw [State.allocPages, ih, State.alloc_stop]
@[simp] theorem State.allocPages_hold (n p : Nat) (s : State) : (State.allocPages n p s).hold = s.hold := by
  induction n generalizing p s with
  | zero => rfl
  | succ n ih => rw [State.allocPages, ih, State.alloc_hold]
@[simp] theorem State.allocPages_icount (n p : Nat) (s : State) : (State.allocPages n p s).icount = s.icount := by
  induction n generalizing p s with
  | zero => rfl
  | succ n ih => rw [State.allocPages, ih, State.alloc_icount]
@[simp] theorem State.allocPages_cycles (n p : Nat) (s : State) : (State.allocPages n p s).cycles = s.cycles := by
  induction n generalizing p s with
  | zero => rfl
  | succ n ih => rw [State.allocPages, ih, State.alloc_cycles]
@[simp] theorem State.allocPages_output (n p : Nat) (s : State) : (State.allocPages n p s).output = s.output := by
  induction n generalizing p s with
  | zero => rfl
  | succ n ih => rw [State.allocPages, ih, State.alloc_output]
@[simp] theorem State.allocPages_input (n p : Nat) (s : State) : (State.allocPages n p s).input = s.input := by
  induction n generalizing p s with
  | zero => rfl
  | succ n ih => rw [State.allocPages, ih, State.alloc_input]
@[simp] theorem State.allocPages_breakpoints (n p : Nat) (s : State) : (State.allocPages n p s).breakpoints = s.breakpoints := by
  induction n generalizing p s with
  | zero => rfl
  | succ n ih => rw [State.allocPages, ih, State.alloc_breakpoints]
@[simp] theorem State.allocPages_resuming (n p : Nat) (s : State) : (State.allocPages n p s).resuming = s.resuming := by
  induction n generalizing p s with
  | zero => rfl
  | succ n ih => rw [State.allocPages, ih, State.alloc_resuming]
@[simp] theorem State.allocPages_fl (n p : Nat) (s : State) : (State.allocPages n p s).fl = s.fl := by
  induction n generalizing p s with
  | zero => rfl
  | succ n ih => rw [State.allocPages, ih, State.alloc_fl]
@[simp] theorem State.allocPages_dl (n p : Nat) (s : State) : (State.allocPages n p s).dl = s.dl := by
  induction n generalizing p s with
  | zero => rfl
  | succ n ih => rw [State.allocPages, ih, State.alloc_dl]
@[simp] theorem State.allocPages_el (n p : Nat) (s : State) : (State.allocPages n p s).el = s.el := by
  induction n generalizing p s with
  | zero => rfl
  | succ n ih => rw [State.allocPages, ih, State.alloc_el]
@[simp] theorem State.allocPages_ml (n p : Nat) (s : State) : (State.allocPages n p s).ml = s.ml := by
  induction n generalizing p s with
  | zero => rfl
  | succ n ih => rw [State.allocPages, ih, State.alloc_ml]
@[simp] theorem State.allocPages_wl (n p : Nat) (s : State) : (State.allocPages n p s).wl = s.wl := by
  induction n generalizing p s with
  | zero => rfl
  | succ n ih => rw [State.allocPages, ih, State.alloc_wl]
@[simp] theorem State.allocPages_reg (n p : Nat) (s : State) (q : Reg) : (State.allocPages n p s).reg q = s.reg q := by
  unfold State.reg; rw [State.allocPages_regs]

end Sys2Proof.Machine
end

