-- ==== Sys2Proof/Laws/Memory.lean ====
section
/-! SUPPORT. The laws of memory: a read after a write, the frame of a write, page lookup after page creation, and that
every memory operation keeps the canonical form. -/

namespace Sys2Proof.Machine

/-! ### Cell lists -/

theorem cellAt_insertCell_self (cs : List Host.Cell) (a : Nat) (v : Byte) : cellAt (insertCell cs a v) a = some v := by
  induction cs with
  | nil => simp [insertCell, cellAt]
  | cons c cs ih =>
    obtain ⟨k, w⟩ := c
    simp only [insertCell]
    split
    · simp [cellAt]
    · split
      · simp [cellAt]
      · rename_i h1 h2
        simp [cellAt, Ne.symm h2, ih]

theorem cellAt_insertCell_other (cs : List Host.Cell) (a b : Nat) (v : Byte) (h : b ≠ a) :
    cellAt (insertCell cs a v) b = cellAt cs b := by
  induction cs with
  | nil => simp [insertCell, cellAt, Ne.symm h]
  | cons c cs ih =>
    obtain ⟨k, w⟩ := c
    simp only [insertCell]
    split
    · simp [cellAt, Ne.symm h]
    · split
      · rename_i h1 h2
        subst h2
        simp [cellAt, Ne.symm h]
      · simp [cellAt, ih]

theorem cellAt_removeCell_self (cs : List Host.Cell) (a : Nat) : cellAt (removeCell cs a) a = none := by
  induction cs with
  | nil => rfl
  | cons c cs ih =>
    obtain ⟨k, w⟩ := c
    simp only [removeCell]
    split
    · exact ih
    · rename_i h
      simp [cellAt, h, ih]

theorem cellAt_removeCell_other (cs : List Host.Cell) (a b : Nat) (h : b ≠ a) :
    cellAt (removeCell cs a) b = cellAt cs b := by
  induction cs with
  | nil => rfl
  | cons c cs ih =>
    obtain ⟨k, w⟩ := c
    simp only [removeCell]
    split
    · rename_i e
      subst e
      simp [cellAt, Ne.symm h, ih]
    · simp [cellAt, ih]

theorem cellsRising_mono (cs : List Host.Cell) (lo lo' : Nat) (h : lo' ≤ lo) (w : cellsRising lo cs = true) :
    cellsRising lo' cs = true := by
  cases cs with
  | nil => rfl
  | cons c cs =>
    obtain ⟨k, v⟩ := c
    simp only [cellsRising, Bool.and_eq_true, decide_eq_true_eq] at w ⊢
    exact ⟨le_trans h w.1, w.2⟩

theorem cellsRising_insertCell (cs : List Host.Cell) (lo a : Nat) (v : Byte) (h : lo ≤ a)
    (w : cellsRising lo cs = true) : cellsRising lo (insertCell cs a v) = true := by
  induction cs generalizing lo with
  | nil => simp [insertCell, cellsRising, h]
  | cons c cs ih =>
    obtain ⟨k, u⟩ := c
    simp only [cellsRising, Bool.and_eq_true, decide_eq_true_eq] at w
    simp only [insertCell]
    split
    · rename_i h1
      simp only [cellsRising, Bool.and_eq_true, decide_eq_true_eq]
      exact ⟨h, h1, w.2⟩
    · split
      · rename_i h2
        subst h2
        simp only [cellsRising, Bool.and_eq_true, decide_eq_true_eq]
        exact ⟨h, w.2⟩
      · simp only [cellsRising, Bool.and_eq_true, decide_eq_true_eq]
        exact ⟨w.1, ih (k + 1) (by omega) w.2⟩

theorem cellsRising_removeCell (cs : List Host.Cell) (lo a : Nat) (w : cellsRising lo cs = true) :
    cellsRising lo (removeCell cs a) = true := by
  induction cs generalizing lo with
  | nil => rfl
  | cons c cs ih =>
    obtain ⟨k, u⟩ := c
    simp only [cellsRising, Bool.and_eq_true, decide_eq_true_eq] at w
    simp only [removeCell]
    split
    · exact cellsRising_mono _ (k + 1) lo (by omega) (ih (k + 1) w.2)
    · simp only [cellsRising, Bool.and_eq_true, decide_eq_true_eq]
      exact ⟨w.1, ih (k + 1) w.2⟩

theorem mem_insertCell (cs : List Host.Cell) (a : Nat) (v : Byte) (x : Host.Cell) (h : x ∈ insertCell cs a v) :
    x = (a, v) ∨ x ∈ cs := by
  induction cs with
  | nil => simpa [insertCell] using h
  | cons c cs ih =>
    obtain ⟨k, w⟩ := c
    simp only [insertCell] at h
    split at h
    · simpa using h
    · split at h
      · rcases List.mem_cons.1 h with h | h
        · exact .inl h
        · exact .inr (List.mem_cons_of_mem _ h)
      · rcases List.mem_cons.1 h with h | h
        · exact .inr (h ▸ List.mem_cons_self)
        · exact (ih h).imp id (List.mem_cons_of_mem _)

theorem mem_removeCell (cs : List Host.Cell) (a : Nat) (x : Host.Cell) (h : x ∈ removeCell cs a) : x ∈ cs := by
  induction cs with
  | nil => exact h
  | cons c cs ih =>
    obtain ⟨k, w⟩ := c
    simp only [removeCell] at h
    split at h
    · exact List.mem_cons_of_mem _ (ih h)
    · rcases List.mem_cons.1 h with h | h
      · exact h ▸ List.mem_cons_self
      · exact List.mem_cons_of_mem _ (ih h)

/-! ### Page lists -/

theorem findPage_base (ps : List Page) (b : Nat) (p : Page) (h : findPage ps b = some p) : p.base = b := by
  induction ps with
  | nil => cases h
  | cons q qs ih =>
    simp only [findPage] at h
    split at h
    · cases h; assumption
    · exact ih h

theorem findPage_insertPage_self (ps : List Page) (p : Page) (h : findPage ps p.base = none) :
    findPage (insertPage ps p) p.base = some p := by
  induction ps with
  | nil => simp [insertPage, findPage]
  | cons q qs ih =>
    simp only [findPage] at h
    split at h
    · cases h
    · rename_i hq
      simp only [insertPage]
      split
      · simp [findPage]
      · rw [if_neg (fun c => hq c.symm)]
        simp [findPage, hq, ih h]

theorem findPage_insertPage_other (ps : List Page) (p : Page) (b : Nat) (h : b ≠ p.base) :
    findPage (insertPage ps p) b = findPage ps b := by
  induction ps with
  | nil => simp [insertPage, findPage, Ne.symm h]
  | cons q qs ih =>
    simp only [insertPage]
    split
    · simp [findPage, Ne.symm h]
    · split
      · rfl
      · simp [findPage, ih]

theorem pagesRising_insertPage (ps : List Page) (lo : Nat) (p : Page) (h : lo ≤ p.base)
    (w : pagesRising lo ps = true) : pagesRising lo (insertPage ps p) = true := by
  induction ps generalizing lo with
  | nil => simp [insertPage, pagesRising, h]
  | cons q qs ih =>
    simp only [pagesRising, Bool.and_eq_true, decide_eq_true_eq] at w
    simp only [insertPage]
    split
    · rename_i h1
      simp only [pagesRising, Bool.and_eq_true, decide_eq_true_eq]
      exact ⟨h, h1, w.2⟩
    · split
      · simp only [pagesRising, Bool.and_eq_true, decide_eq_true_eq]
        exact w
      · simp only [pagesRising, Bool.and_eq_true, decide_eq_true_eq]
        exact ⟨w.1, ih (q.base + 1) (by omega) w.2⟩

theorem mem_insertPage (ps : List Page) (p x : Page) (h : x ∈ insertPage ps p) : x = p ∨ x ∈ ps := by
  induction ps with
  | nil => simpa [insertPage] using h
  | cons q qs ih =>
    simp only [insertPage] at h
    split at h
    · simpa using h
    · split at h
      · exact .inr h
      · rcases List.mem_cons.1 h with h | h
        · exact .inr (h ▸ List.mem_cons_self)
        · exact (ih h).imp id (List.mem_cons_of_mem _)

/-! ### One byte -/

@[simp] theorem setByte_pages (c : Config) (m : Memory) (a : Nat) (v : Byte) : (setByte c m a v).pages = m.pages := by
  unfold setByte
  split
  · rfl
  · split <;> rfl

@[simp] theorem walk_setByte (c : Config) (m : Memory) (a b : Nat) (v : Byte) :
    walk c (setByte c m a v) b = walk c m b := by
  unfold walk
  rw [setByte_pages]

/-- A read after a write to the same byte of a present page gives the byte written (20_memory.md R58). -/
theorem byteAt_setByte_self (c : Config) (m : Memory) (a : Nat) (v : Byte) (p : Page) (h : walk c m a = some p) :
    byteAt c (setByte c m a v) a = some v := by
  unfold byteAt
  rw [walk_setByte, h]
  unfold setByte
  rw [h]
  by_cases z : p.fill = .zero ∧ v = 0
  · simp [cellAt_removeCell_self, unlistedByte, z.1, z.2]
  · simp only [if_neg z, cellAt_insertCell_self]

/-- A write leaves every other byte alone. -/
theorem byteAt_setByte_other (c : Config) (m : Memory) (a b : Nat) (v : Byte) (h : b ≠ a) :
    byteAt c (setByte c m a v) b = byteAt c m b := by
  unfold byteAt
  rw [walk_setByte]
  have e : cellAt (setByte c m a v).cells b = cellAt m.cells b := by
    unfold setByte
    split
    · rfl
    · split
      · exact cellAt_removeCell_other _ _ _ h
      · exact cellAt_insertCell_other _ _ _ _ h
  rw [e]

/-! ### Little-endian values -/

@[simp] theorem writeLE_pages (c : Config) (m : Memory) (a n : Nat) (v : Word) :
    (writeLE c m a n v).pages = m.pages := by
  induction n generalizing m a v with
  | zero => rfl
  | succ n ih => rw [writeLE, ih, setByte_pages]

@[simp] theorem walk_writeLE (c : Config) (m : Memory) (a n b : Nat) (v : Word) :
    walk c (writeLE c m a n v) b = walk c m b := by
  unfold walk
  rw [writeLE_pages]

/-- A write of `n` bytes leaves every byte outside them alone. -/
theorem byteAt_writeLE_other (c : Config) (m : Memory) (a n b : Nat) (v : Word) (h : b < a ∨ a + n ≤ b) :
    byteAt c (writeLE c m a n v) b = byteAt c m b := by
  induction n generalizing m a v with
  | zero => rfl
  | succ n ih =>
    rw [writeLE, ih _ _ _ (by omega), byteAt_setByte_other _ _ _ _ _ (by omega)]

/-- Byte `k` of a write to present pages is bits 8k+7..8k of the value (20_memory.md R47). -/
theorem byteAt_writeLE (c : Config) (m : Memory) (a n k : Nat) (v : Word) (hk : k < n)
    (hp : ∀ i, i < n → (walk c m (a + i)).isSome = true) :
    byteAt c (writeLE c m a n v) (a + k) = some (v.extractLsb' (8 * k) 8) := by
  induction n generalizing m a v k with
  | zero => omega
  | succ n ih =>
    rw [writeLE]
    cases k with
    | zero =>
      obtain ⟨p, h⟩ := Option.isSome_iff_exists.1 (hp 0 (by omega))
      rw [byteAt_writeLE_other _ _ _ _ _ _ (by omega)]
      simpa using byteAt_setByte_self c m a (v.extractLsb' 0 8) p (by simpa using h)
    | succ k =>
      have e : a + (k + 1) = (a + 1) + k := by omega
      rw [e, ih _ _ _ _ (by omega)]
      · congr 1
        ext i hi
        simp only [BitVec.getElem_extractLsb', BitVec.getLsbD_ushiftRight]
        congr 1
        omega
      · intro i hi
        rw [walk_setByte]
        have := hp (i + 1) (by omega)
        rwa [show a + 1 + i = a + (i + 1) by omega]

/-- An access is allowed iff each of its bytes is (20_memory.md R45). -/
theorem firstFault_eq_none (c : Config) (m : Memory) (k : AccessKind) (a n : Nat) :
    firstFault c m k a n = none ↔ ∀ i, i < n → byteAllowed c m k (a + i) = true := by
  induction n generalizing a with
  | zero => simp [firstFault]
  | succ n ih =>
    simp only [firstFault]
    split
    · rename_i h
      rw [ih]
      constructor
      · intro w i hi
        cases i with
        | zero => simpa using h
        | succ i => rw [show a + (i + 1) = a + 1 + i by omega]; exact w i (by omega)
      · intro w i hi
        rw [show a + 1 + i = a + (i + 1) by omega]
        exact w (i + 1) (by omega)
    · rename_i h
      constructor
      · intro w; cases w
      · intro w; exact absurd (by simpa using w 0 (by omega)) h

/-- A faulting access names its lowest faulting byte (20_memory.md R45). -/
theorem firstFault_eq_some (c : Config) (m : Memory) (k : AccessKind) (a n b : Nat) :
    firstFault c m k a n = some b ↔
      ∃ i, i < n ∧ b = a + i ∧ byteAllowed c m k b = false ∧ ∀ j, j < i → byteAllowed c m k (a + j) = true := by
  induction n generalizing a with
  | zero => simp [firstFault]
  | succ n ih =>
    simp only [firstFault]
    split
    · rename_i h
      rw [ih]
      constructor
      · rintro ⟨i, hi, hb, hf, hl⟩
        refine ⟨i + 1, by omega, by omega, hf, fun j hj => ?_⟩
        cases j with
        | zero => simpa using h
        | succ j => rw [show a + (j + 1) = a + 1 + j by omega]; exact hl j (by omega)
      · rintro ⟨i, hi, hb, hf, hl⟩
        cases i with
        | zero => subst hb; simp [h] at hf
        | succ i =>
          refine ⟨i, by omega, by omega, hf, fun j hj => ?_⟩
          rw [show a + 1 + j = a + (j + 1) by omega]
          exact hl (j + 1) (by omega)
    · rename_i h
      constructor
      · intro w
        cases w
        exact ⟨0, by omega, by omega, by simpa using h, fun j hj => by omega⟩
      · rintro ⟨i, hi, hb, hf, hl⟩
        cases i with
        | zero => simp [hb]
        | succ i => exact absurd (by simpa using hl 0 (by omega)) h

/-! ### The canonical form -/

@[simp] theorem Memory.wf_empty (c : Config) : Memory.empty.wf c = true := rfl

theorem Memory.wf_iff (c : Config) (m : Memory) :
    m.wf c = true ↔ pagesRising 0 m.pages = true ∧ cellsRising 0 m.cells = true ∧
      (∀ p ∈ m.pages, pageOk c p = true) ∧ ∀ x ∈ m.cells, cellOk c m x = true := by
  simp [Memory.wf, and_assoc]

theorem cellOk_congr (c : Config) (m n : Memory) (x : Host.Cell) (h : walk c n x.1 = walk c m x.1) :
    cellOk c n x = cellOk c m x := by
  unfold cellOk
  rw [h]

/-- A byte write keeps the canonical form. -/
theorem Memory.wf_setByte (c : Config) (m : Memory) (a : Nat) (v : Byte) (w : m.wf c = true) :
    (setByte c m a v).wf c = true := by
  obtain ⟨w1, w2, w3, w4⟩ := (Memory.wf_iff c m).1 w
  refine (Memory.wf_iff c _).2 ⟨by rwa [setByte_pages], ?_, by rwa [setByte_pages], ?_⟩
  · unfold setByte
    split
    · exact w2
    · split
      · exact cellsRising_removeCell _ _ _ w2
      · exact cellsRising_insertCell _ _ _ _ (by omega) w2
  · intro x hx
    rw [cellOk_congr c m _ x (walk_setByte c m a x.1 v)]
    unfold setByte at hx
    split at hx
    · exact w4 x hx
    · rename_i p hp
      split at hx
      · exact w4 x (mem_removeCell _ _ _ hx)
      · rename_i hz
        rcases mem_insertCell _ _ _ _ hx with rfl | h
        · simp only [cellOk, hp, Bool.not_eq_true', Bool.and_eq_false_iff, decide_eq_false_iff_not]
          by_cases f : p.fill = .zero
          · exact .inr fun z => hz ⟨f, z⟩
          · exact .inl f
        · exact w4 x h

theorem Memory.wf_writeLE (c : Config) (m : Memory) (a n : Nat) (v : Word) (w : m.wf c = true) :
    (writeLE c m a n v).wf c = true := by
  induction n generalizing m a v with
  | zero => exact w
  | succ n ih => exact ih _ _ _ (Memory.wf_setByte c m a _ w)

/-- MemWrite keeps the canonical form. -/
theorem Memory.wf_memWrite (c : Config) (m m' : Memory) (a : Word) (n : Nat) (v : Word) (w : m.wf c = true)
    (h : memWrite c m a n v = .ok m') : m'.wf c = true := by
  unfold memWrite at h
  split at h
  · cases h
  · cases h; exact Memory.wf_writeLE c m a.toNat n v w

theorem walk_insertPage_present (c : Config) (m : Memory) (p q : Page) (a : Nat) (h : walk c m a = some q)
    (n : findPage m.pages p.base = none) : walk c { m with pages := insertPage m.pages p } a = some q := by
  unfold walk at h ⊢
  by_cases e : pageBase c a = p.base
  · rw [e, n] at h; cases h
  · exact (findPage_insertPage_other m.pages p _ e).trans h

/-- Page creation keeps the canonical form. -/
theorem Memory.wf_insertPage (c : Config) (m : Memory) (p : Page) (w : m.wf c = true) (ok : pageOk c p = true)
    (n : findPage m.pages p.base = none) : Memory.wf c { m with pages := insertPage m.pages p } = true := by
  obtain ⟨w1, w2, w3, w4⟩ := (Memory.wf_iff c m).1 w
  refine (Memory.wf_iff c _).2 ⟨pagesRising_insertPage _ _ _ (by omega) w1, w2, ?_, ?_⟩
  · intro q hq
    rcases mem_insertPage _ _ _ hq with rfl | h
    · exact ok
    · exact w3 q h
  · intro x hx
    have hx' := w4 x hx
    unfold cellOk at hx' ⊢
    split at hx'
    · cases hx'
    · rename_i q hq
      rw [walk_insertPage_present c m p q x.1 hq n]
      exact hx'

theorem findPage_none_of_rising (ps : List Page) (lo b : Nat) (h : b < lo) (w : pagesRising lo ps = true) :
    findPage ps b = none := by
  induction ps generalizing lo with
  | nil => rfl
  | cons q qs ih =>
    simp only [pagesRising, Bool.and_eq_true, decide_eq_true_eq] at w
    rw [findPage, if_neg (by omega)]
    exact ih (q.base + 1) (by omega) w.2

theorem pagesRising_makeExecutable (ps : List Page) (lo b : Nat) (h : lo ≤ b) (w : pagesRising lo ps = true) :
    pagesRising lo (makeExecutable ps b) = true := by
  induction ps generalizing lo with
  | nil => simp [makeExecutable, pagesRising, h]
  | cons q qs ih =>
    simp only [pagesRising, Bool.and_eq_true, decide_eq_true_eq] at w
    simp only [makeExecutable]
    split
    · rename_i h1
      simp only [pagesRising, Bool.and_eq_true, decide_eq_true_eq]
      exact ⟨h, h1, w.2⟩
    · split
      · simp only [pagesRising, Bool.and_eq_true, decide_eq_true_eq]
        exact w
      · simp only [pagesRising, Bool.and_eq_true, decide_eq_true_eq]
        exact ⟨w.1, ih (q.base + 1) (by omega) w.2⟩

theorem mem_makeExecutable (ps : List Page) (b : Nat) (x : Page) (h : x ∈ makeExecutable ps b) :
    x.base = b ∨ x ∈ ps := by
  induction ps with
  | nil => simp only [makeExecutable, List.mem_singleton] at h; exact .inl (h ▸ rfl)
  | cons q qs ih =>
    simp only [makeExecutable] at h
    split at h
    · rcases List.mem_cons.1 h with h | h
      · exact .inl (h ▸ rfl)
      · exact .inr h
    · split at h
      · rename_i e
        rcases List.mem_cons.1 h with h | h
        · exact .inl (h ▸ e.symm)
        · exact .inr (List.mem_cons_of_mem _ h)
      · rcases List.mem_cons.1 h with h | h
        · exact .inr (h ▸ List.mem_cons_self)
        · exact (ih h).imp id (List.mem_cons_of_mem _)

/-- A page that was present is still there, with its fill. -/
theorem findPage_makeExecutable (ps : List Page) (lo b a : Nat) (p : Page) (w : pagesRising lo ps = true)
    (h : findPage ps a = some p) : ∃ q, findPage (makeExecutable ps b) a = some q ∧ q.fill = p.fill := by
  induction ps generalizing lo with
  | nil => cases h
  | cons q qs ih =>
    simp only [pagesRising, Bool.and_eq_true, decide_eq_true_eq] at w
    simp only [makeExecutable]
    split
    · rename_i h1
      refine ⟨p, ?_, rfl⟩
      by_cases e : b = a
      · have n := findPage_none_of_rising (q :: qs) q.base a (by omega)
          (by simp only [pagesRising, Bool.and_eq_true, decide_eq_true_eq]; exact ⟨le_refl _, w.2⟩)
        rw [n] at h; cases h
      · rw [findPage, if_neg e]; exact h
    · split
      · by_cases e : q.base = a
        · rw [findPage, if_pos e] at h
          cases h
          exact ⟨{ p with executable := true }, by rw [findPage, if_pos e], rfl⟩
        · rw [findPage, if_neg e] at h
          exact ⟨p, by rw [findPage, if_neg e]; exact h, rfl⟩
      · by_cases e : q.base = a
        · rw [findPage, if_pos e] at h
          exact ⟨p, by rw [findPage, if_pos e]; exact h, rfl⟩
        · rw [findPage, if_neg e] at h
          obtain ⟨r, hr, hf⟩ := ih (q.base + 1) w.2 h
          exact ⟨r, by rw [findPage, if_neg e]; exact hr, hf⟩

theorem pageBase_mod (c : Config) (a : Nat) : pageBase c a % pageSize c = 0 := by
  unfold pageBase
  exact Nat.sub_mod_eq_zero_of_mod_eq (Nat.mod_mod a _).symm

theorem pageBase_le (c : Config) (a : Nat) : pageBase c a ≤ a := Nat.sub_le _ _

/-- Placing an instruction word below MAXADDR keeps the canonical form. -/
theorem State.placeWord_wf (s : State) (v : Nat) (h : s.fetchPc.toNat < s.cfg.maxAddr.toNat)
    (w : s.mem.wf s.cfg = true) : (s.placeWord v).mem.wf s.cfg = true := by
  obtain ⟨w1, w2, w3, w4⟩ := (Memory.wf_iff _ _).1 w
  refine Memory.wf_writeLE _ _ _ _ _ ((Memory.wf_iff _ _).2 ⟨pagesRising_makeExecutable _ _ _ (by omega) w1, w2, ?_, ?_⟩)
  · intro p hp
    rcases mem_makeExecutable _ _ _ hp with e | e
    · simp only [pageOk, e, pageBase_mod, decide_true, Bool.true_and, decide_eq_true_eq]
      exact lt_of_le_of_lt (pageBase_le _ _) h
    · exact w3 p e
  · intro x hx
    have hx' := w4 x hx
    unfold cellOk walk at hx' ⊢
    split at hx'
    · cases hx'
    · rename_i p hp
      obtain ⟨q, hq, hf⟩ := findPage_makeExecutable s.mem.pages 0 (pageBase s.cfg s.fetchPc.toNat) _ p w1 hp
      rw [hq]
      simpa [hf] using hx'

end Sys2Proof.Machine
end

