-- ==== Sys2Proof/Laws/Ops.lean ====
section
/-! SUPPORT. What each shared operation can do, said once: page allocation, the commit, Writeback, and Memory and
Writeback of each shape of instruction. -/

namespace Sys2Proof.Machine

/-! ### Alloc (20_memory.md R49) -/

/-- A present page stays as it is. -/
theorem State.alloc_walk_present (s : State) (b : Nat) (w x : Bool) (a : Nat) (p : Page)
    (h : walk s.cfg s.mem a = some p) : walk s.cfg (s.alloc b w x).mem a = some p := by
  unfold State.alloc
  split
  · split
    · exact h
    · rename_i n
      exact walk_insertPage_present s.cfg s.mem _ p a h n
  · exact h

/-- Outside the page allocated, lookups are unchanged. -/
theorem State.alloc_walk_other (s : State) (b : Nat) (w x : Bool) (a : Nat) (h : pageBase s.cfg a ≠ b) :
    walk s.cfg (s.alloc b w x).mem a = walk s.cfg s.mem a := by
  unfold State.alloc
  split
  · split
    · rfl
    · exact findPage_insertPage_other _ _ _ h
  · rfl

@[simp] theorem State.alloc_cells (s : State) (b : Nat) (w x : Bool) : (s.alloc b w x).mem.cells = s.mem.cells := by
  unfold State.alloc
  split <;> [split <;> rfl; rfl]

/-- Every byte of a present page reads as before. -/
theorem State.alloc_byteAt_present (s : State) (b : Nat) (w x : Bool) (a : Nat) (p : Page)
    (h : walk s.cfg s.mem a = some p) : byteAt s.cfg (s.alloc b w x).mem a = byteAt s.cfg s.mem a := by
  unfold byteAt
  rw [State.alloc_walk_present s b w x a p h, h, State.alloc_cells]

/-- Outside the page allocated, every byte reads as before. -/
theorem State.alloc_byteAt_other (s : State) (b : Nat) (w x : Bool) (a : Nat) (h : pageBase s.cfg a ≠ b) :
    byteAt s.cfg (s.alloc b w x).mem a = byteAt s.cfg s.mem a := by
  unfold byteAt
  rw [State.alloc_walk_other s b w x a h, State.alloc_cells]

/-- At or above MAXADDR, and where the page is present, Alloc does nothing. -/
theorem State.alloc_nothing (s : State) (b : Nat) (w x : Bool)
    (h : s.cfg.maxAddr.toNat ≤ b ∨ (findPage s.mem.pages b).isSome = true) : s.alloc b w x = s := by
  unfold State.alloc
  rcases h with h | h
  · rw [if_neg (by omega)]
  · split
    · split
      · rfl
      · rename_i e; rw [e] at h; cases h
    · rfl

/-- An absent page below MAXADDR is created with the bits given. -/
theorem State.alloc_created (s : State) (b : Nat) (w x : Bool) (h : b < s.cfg.maxAddr.toNat)
    (n : findPage s.mem.pages b = none) :
    findPage (s.alloc b w x).mem.pages b =
      some { base := b, writable := w, executable := x, fill := s.newFill } := by
  unfold State.alloc
  rw [if_pos h, n]
  exact findPage_insertPage_self s.mem.pages { base := b, writable := w, executable := x, fill := s.newFill } n

/-- Allocation at a page base keeps the canonical form. -/
theorem State.alloc_wf (s : State) (b : Nat) (w x : Bool) (m : b % pageSize s.cfg = 0)
    (h : s.mem.wf s.cfg = true) : (s.alloc b w x).mem.wf s.cfg = true := by
  unfold State.alloc
  split
  · split
    · exact h
    · rename_i lt _ n
      exact Memory.wf_insertPage _ _ _ h (by simp [pageOk, m, lt]) n
  · exact h

theorem State.allocPages_walk_present (n b : Nat) (s : State) (a : Nat) (p : Page)
    (h : walk s.cfg s.mem a = some p) : walk s.cfg (State.allocPages n b s).mem a = some p := by
  induction n generalizing b s with
  | zero => exact h
  | succ n ih =>
    have k := ih (b + pageSize s.cfg) (s.alloc b true false)
      (by rw [State.alloc_cfg]; exact State.alloc_walk_present s b true false a p h)
    rwa [State.alloc_cfg] at k

theorem State.allocPages_wf (n b : Nat) (s : State) (m : b % pageSize s.cfg = 0)
    (h : s.mem.wf s.cfg = true) : (State.allocPages n b s).mem.wf s.cfg = true := by
  induction n generalizing b s with
  | zero => exact h
  | succ n ih =>
    have k := ih (b + pageSize s.cfg) (s.alloc b true false)
      (by rw [State.alloc_cfg, Nat.add_mod, m]; simp)
      (by rw [State.alloc_cfg]; exact State.alloc_wf s b true false m h)
    rwa [State.alloc_cfg] at k

/-! ### The commit (40_execution_step.md R99) -/

/-- What a commit that raises no stop does: x0 discards; x2 allocates the page of its new value; the rest write. -/
theorem commit_ok_cases {r : Reg} {v : Word} {s t : State} (h : commit r v s = .ok t) :
    (r = 0 ∧ t = s) ∨
    (r = spReg ∧ s.cfg.heapMax ≤ v ∧ v ≤ s.cfg.maxAddr ∧
      t = (s.alloc (pageBase s.cfg v.toNat) true false).setReg r v) ∨
    (r ≠ 0 ∧ r ≠ spReg ∧ t = s.setReg r v) := by
  unfold commit at h
  split at h
  · rename_i z; cases h; exact .inl ⟨z, rfl⟩
  · split at h
    · rename_i e
      split at h
      · cases h
      · rename_i b
        cases h
        exact .inr (.inl ⟨e, by simpa using fun c => b (.inl c), by simpa using fun c => b (.inr c), rfl⟩)
    · rename_i z n; cases h; exact .inr (.inr ⟨z, n, rfl⟩)

/-- When a commit stops: only at x2, out of bounds, with StackExhausted. -/
theorem commit_error_cases {r : Reg} {v : Word} {s : State} {e : StopReason} (h : commit r v s = .error e) :
    r = spReg ∧ (v < s.cfg.heapMax ∨ s.cfg.maxAddr < v) ∧ e = .stackExhausted v := by
  unfold commit at h
  split at h
  · cases h
  · split at h
    · rename_i q
      split at h
      · rename_i b; cases h; exact ⟨q, b, rfl⟩
      · cases h
    · cases h

theorem commit_cfg {r : Reg} {v : Word} {s t : State} (h : commit r v s = .ok t) : t.cfg = s.cfg := by
  obtain ⟨_, rfl⟩ | ⟨_, _, _, rfl⟩ | ⟨_, _, rfl⟩ := commit_ok_cases h <;> simp
theorem commit_pc {r : Reg} {v : Word} {s t : State} (h : commit r v s = .ok t) : t.pc = s.pc := by
  obtain ⟨_, rfl⟩ | ⟨_, _, _, rfl⟩ | ⟨_, _, rfl⟩ := commit_ok_cases h <;> simp
theorem commit_heap {r : Reg} {v : Word} {s t : State} (h : commit r v s = .ok t) : t.heap = s.heap := by
  obtain ⟨_, rfl⟩ | ⟨_, _, _, rfl⟩ | ⟨_, _, rfl⟩ := commit_ok_cases h <;> simp
theorem commit_finished {r : Reg} {v : Word} {s t : State} (h : commit r v s = .ok t) : t.finished = s.finished := by
  obtain ⟨_, rfl⟩ | ⟨_, _, _, rfl⟩ | ⟨_, _, rfl⟩ := commit_ok_cases h <;> simp
theorem commit_exitStatus {r : Reg} {v : Word} {s t : State} (h : commit r v s = .ok t) : t.exitStatus = s.exitStatus := by
  obtain ⟨_, rfl⟩ | ⟨_, _, _, rfl⟩ | ⟨_, _, rfl⟩ := commit_ok_cases h <;> simp
theorem commit_stop {r : Reg} {v : Word} {s t : State} (h : commit r v s = .ok t) : t.stop = s.stop := by
  obtain ⟨_, rfl⟩ | ⟨_, _, _, rfl⟩ | ⟨_, _, rfl⟩ := commit_ok_cases h <;> simp
theorem commit_hold {r : Reg} {v : Word} {s t : State} (h : commit r v s = .ok t) : t.hold = s.hold := by
  obtain ⟨_, rfl⟩ | ⟨_, _, _, rfl⟩ | ⟨_, _, rfl⟩ := commit_ok_cases h <;> simp
theorem commit_icount {r : Reg} {v : Word} {s t : State} (h : commit r v s = .ok t) : t.icount = s.icount := by
  obtain ⟨_, rfl⟩ | ⟨_, _, _, rfl⟩ | ⟨_, _, rfl⟩ := commit_ok_cases h <;> simp
theorem commit_cycles {r : Reg} {v : Word} {s t : State} (h : commit r v s = .ok t) : t.cycles = s.cycles := by
  obtain ⟨_, rfl⟩ | ⟨_, _, _, rfl⟩ | ⟨_, _, rfl⟩ := commit_ok_cases h <;> simp
theorem commit_output {r : Reg} {v : Word} {s t : State} (h : commit r v s = .ok t) : t.output = s.output := by
  obtain ⟨_, rfl⟩ | ⟨_, _, _, rfl⟩ | ⟨_, _, rfl⟩ := commit_ok_cases h <;> simp
theorem commit_input {r : Reg} {v : Word} {s t : State} (h : commit r v s = .ok t) : t.input = s.input := by
  obtain ⟨_, rfl⟩ | ⟨_, _, _, rfl⟩ | ⟨_, _, rfl⟩ := commit_ok_cases h <;> simp
theorem commit_breakpoints {r : Reg} {v : Word} {s t : State} (h : commit r v s = .ok t) : t.breakpoints = s.breakpoints := by
  obtain ⟨_, rfl⟩ | ⟨_, _, _, rfl⟩ | ⟨_, _, rfl⟩ := commit_ok_cases h <;> simp
theorem commit_resuming {r : Reg} {v : Word} {s t : State} (h : commit r v s = .ok t) : t.resuming = s.resuming := by
  obtain ⟨_, rfl⟩ | ⟨_, _, _, rfl⟩ | ⟨_, _, rfl⟩ := commit_ok_cases h <;> simp
theorem commit_fl {r : Reg} {v : Word} {s t : State} (h : commit r v s = .ok t) : t.fl = s.fl := by
  obtain ⟨_, rfl⟩ | ⟨_, _, _, rfl⟩ | ⟨_, _, rfl⟩ := commit_ok_cases h <;> simp
theorem commit_dl {r : Reg} {v : Word} {s t : State} (h : commit r v s = .ok t) : t.dl = s.dl := by
  obtain ⟨_, rfl⟩ | ⟨_, _, _, rfl⟩ | ⟨_, _, rfl⟩ := commit_ok_cases h <;> simp
theorem commit_el {r : Reg} {v : Word} {s t : State} (h : commit r v s = .ok t) : t.el = s.el := by
  obtain ⟨_, rfl⟩ | ⟨_, _, _, rfl⟩ | ⟨_, _, rfl⟩ := commit_ok_cases h <;> simp
theorem commit_ml {r : Reg} {v : Word} {s t : State} (h : commit r v s = .ok t) : t.ml = s.ml := by
  obtain ⟨_, rfl⟩ | ⟨_, _, _, rfl⟩ | ⟨_, _, rfl⟩ := commit_ok_cases h <;> simp
theorem commit_wl {r : Reg} {v : Word} {s t : State} (h : commit r v s = .ok t) : t.wl = s.wl := by
  obtain ⟨_, rfl⟩ | ⟨_, _, _, rfl⟩ | ⟨_, _, rfl⟩ := commit_ok_cases h <;> simp

/-- The register committed to. -/
theorem commit_reg_self {r : Reg} {v : Word} {s t : State} (h : commit r v s = .ok t) :
    t.reg r = if r = 0 then 0 else v := by
  obtain ⟨z, rfl⟩ | ⟨_, _, _, rfl⟩ | ⟨_, _, rfl⟩ := commit_ok_cases h
  · simp [z, State.reg]
  · exact State.setReg_reg_self _ _ _
  · exact State.setReg_reg_self _ _ _

/-- Every other register. -/
theorem commit_reg_other {r q : Reg} {v : Word} {s t : State} (h : commit r v s = .ok t) (n : q ≠ r) :
    t.reg q = s.reg q := by
  obtain ⟨_, rfl⟩ | ⟨_, _, _, rfl⟩ | ⟨_, _, rfl⟩ := commit_ok_cases h
  · rfl
  · rw [State.setReg_reg_other _ _ _ _ n, State.alloc_reg]
  · exact State.setReg_reg_other _ _ _ _ n

/-- Memory after a commit: unchanged, or one page allocated. -/
theorem commit_mem {r : Reg} {v : Word} {s t : State} (h : commit r v s = .ok t) :
    t.mem = s.mem ∨ r = spReg ∧ t.mem = (s.alloc (pageBase s.cfg v.toNat) true false).mem := by
  obtain ⟨_, rfl⟩ | ⟨e, _, _, rfl⟩ | ⟨_, _, rfl⟩ := commit_ok_cases h
  · exact .inl rfl
  · exact .inr ⟨e, by simp⟩
  · exact .inl (by simp)

/-- A commit keeps the canonical form. -/
theorem commit_wf {r : Reg} {v : Word} {s t : State} (h : commit r v s = .ok t) (w : s.mem.wf s.cfg = true) :
    t.mem.wf t.cfg = true := by
  rw [commit_cfg h]
  obtain e | ⟨_, e⟩ := commit_mem h
  · rw [e]; exact w
  · rw [e]; exact State.alloc_wf s _ true false (pageBase_mod _ _) w

/-! ### Writeback, Memory and the end of an instruction -/

/-- Writeback answers a next state: the commit and the advance, or a stop with nothing else. -/
theorem writeback_cases (rd : Reg) (v npc : Word) (s : State) :
    (∃ t, commit rd v s = .ok t ∧ writeback rd v npc s = .next (t.retire npc)) ∨
    (∃ e, commit rd v s = .error e ∧ writeback rd v npc s = .next (s.raise e s.pc)) := by
  unfold writeback
  split
  · rename_i e h; exact .inr ⟨e, h, rfl⟩
  · rename_i t h; exact .inl ⟨t, h, rfl⟩

/-- Everything an instruction other than ECALL can do (40_execution_step.md R95, R100, R101): commit a value and
continue; store and continue; only continue; or stop, with nothing else. -/
theorem finish_cases (x : Executed) (rd : Reg) (s : State) :
    (∃ v npc t, commit rd v s = .ok t ∧ finish x rd s = .next (t.retire npc)) ∨
    (∃ k ea data m, memWrite s.cfg s.mem ea (StoreKind.bytes k) data = .ok m ∧
      finish x rd s = .next ((s.setMem m).retire (nextPc s))) ∨
    (∃ npc, finish x rd s = .next (s.retire npc)) ∨
    (∃ e, finish x rd s = .next (s.raise e s.pc)) := by
  have wb (v npc : Word) (h : finish x rd s = writeback rd v npc s) :
      (∃ v npc t, commit rd v s = .ok t ∧ finish x rd s = .next (t.retire npc)) ∨
      (∃ k ea data m, memWrite s.cfg s.mem ea (StoreKind.bytes k) data = .ok m ∧
        finish x rd s = .next ((s.setMem m).retire (nextPc s))) ∨
      (∃ npc, finish x rd s = .next (s.retire npc)) ∨
      (∃ e, finish x rd s = .next (s.raise e s.pc)) := by
    obtain ⟨t, c, e⟩ | ⟨e, _, e'⟩ := writeback_cases rd v npc s
    · exact .inl ⟨v, npc, t, c, h.trans e⟩
    · exact .inr (.inr (.inr ⟨e, h.trans e'⟩))
  cases x with
  | value v => exact wb v (nextPc s) rfl
  | jump link target => exact wb link target rfl
  | branch taken target => exact .inr (.inr (.inl ⟨_, rfl⟩))
  | stops e => exact .inr (.inr (.inr ⟨e, rfl⟩))
  | nothing => exact .inr (.inr (.inl ⟨_, rfl⟩))
  | load k ea =>
    cases h : memRead s.cfg s.mem ea k.bytes with
    | error e => exact .inr (.inr (.inr ⟨e, by simp [finish, finishLoad, h]⟩))
    | ok v => exact wb (k.extend v) (nextPc s) (by simp [finish, finishLoad, h])
  | store k ea data =>
    cases h : memWrite s.cfg s.mem ea k.bytes data with
    | error e => exact .inr (.inr (.inr ⟨e, by simp [finish, finishStore, h]⟩))
    | ok m => exact .inr (.inl ⟨k, ea, data, m, h, by simp [finish, finishStore, h]⟩)

/-- Everything a service can do (45_system.md R203-R211): wait, stop with the output so far, or leave memory, the other
engine registers and every register but through its result as they were. -/
theorem runService_done {v : Service} {arg res : Word} {s t : State} (h : runService v arg s = .done res t) :
    t.cfg = s.cfg ∧ t.regs = s.regs ∧ t.pc = s.pc ∧ t.stop = s.stop ∧ t.hold = s.hold ∧ t.finished = s.finished ∧
      t.icount = s.icount ∧ t.cycles = s.cycles ∧ t.breakpoints = s.breakpoints ∧ t.resuming = s.resuming ∧
      t.fl = s.fl ∧ t.dl = s.dl ∧ t.el = s.el ∧ t.ml = s.ml ∧ t.wl = s.wl := by
  cases v <;> simp only [runService] at h
  · cases h; simp
  · cases h; simp
  · unfold servicePrintString at h
    dsimp only at h
    split at h <;> cases h
    simp
  · unfold serviceReadInt at h
    split at h <;> cases h
    simp
  · unfold serviceReadChar at h
    split at h <;> cases h
    simp
  · unfold serviceSbrk at h
    dsimp only at h
    split at h <;> cases h
    simp
  · cases h; simp
  · cases h; simp
  · cases h; simp

/-- A service keeps the canonical form. -/
theorem runService_wf {v : Service} {arg res : Word} {s t : State} (h : runService v arg s = .done res t)
    (w : s.mem.wf s.cfg = true) : t.mem.wf t.cfg = true := by
  cases v <;> simp only [runService] at h
  · cases h; exact w
  · cases h; exact w
  · unfold servicePrintString at h
    dsimp only at h
    split at h <;> cases h
    exact w
  · unfold serviceReadInt at h
    split at h <;> cases h
    exact w
  · unfold serviceReadChar at h
    split at h <;> cases h
    exact w
  · unfold serviceSbrk at h
    dsimp only at h
    split at h <;> cases h
    dsimp only
    rw [State.allocPages_cfg]
    exact State.allocPages_wf _ _ s (pageBase_mod _ _) w
  · cases h; exact w
  · cases h; exact w
  · cases h; exact w

end Sys2Proof.Machine
end

