-- ==== Sys2Proof/Laws/PerInstr.lean ====
section
/-! SUPPORT. Per instruction: its encoder and its row of the opcode table agree (30_encoding.md R80). -/

namespace Sys2Proof.Laws

/-- A byte-for-byte mask over two fields acts on each field. -/
theorem append_and {m n : Nat} (a c : BitVec m) (b d : BitVec n) : (a ++ b) &&& (c ++ d) = (a &&& c) ++ (b &&& d) :=
  BitVec.and_append

theorem and_ones7 (x : BitVec 7) : x &&& 127#7 = x := BitVec.and_allOnes

theorem and_ones3 (x : BitVec 3) : x &&& 7#3 = x := BitVec.and_allOnes

theorem encodeR_mask (f7 : BitVec 7) (rs2 rs1 : Reg) (f3 : BitVec 3) (rd : Reg) (op : BitVec 7) :
    encodeR f7 rs2 rs1 f3 rd op &&& 0xfe00707f#32 = encodeR f7 0 0 f3 0 op := by
  have e : 0xfe00707f#32 = (127#7 ++ 0#5 ++ 0#5 ++ 7#3 ++ 0#5 ++ 127#7 : BitVec (7 + 5 + 5 + 3 + 5 + 7)) := by decide
  rw [e]
  show (f7 ++ rs2 ++ rs1 ++ f3 ++ rd ++ op : BitVec (7 + 5 + 5 + 3 + 5 + 7)) &&& (127#7 ++ 0#5 ++ 0#5 ++ 7#3 ++ 0#5 ++ 127#7) = _
  repeat rw [append_and]
  simp only [encodeR, and_ones7, and_ones3, BitVec.and_zero]
  rfl

theorem encodeI_mask (imm : BitVec 12) (rs1 : Reg) (f3 : BitVec 3) (rd : Reg) (op : BitVec 7) :
    encodeI imm rs1 f3 rd op &&& 0x0000707f#32 = encodeI 0 0 f3 0 op := by
  have e : 0x0000707f#32 = (0#12 ++ 0#5 ++ 7#3 ++ 0#5 ++ 127#7 : BitVec (12 + 5 + 3 + 5 + 7)) := by decide
  rw [e]
  show (imm ++ rs1 ++ f3 ++ rd ++ op : BitVec (12 + 5 + 3 + 5 + 7)) &&& (0#12 ++ 0#5 ++ 7#3 ++ 0#5 ++ 127#7) = _
  repeat rw [append_and]
  simp only [encodeI, and_ones7, and_ones3, BitVec.and_zero]
  rfl

theorem encodeI_mask30 (imm : BitVec 12) (rs1 : Reg) (f3 : BitVec 3) (rd : Reg) (op : BitVec 7) :
    encodeI imm rs1 f3 rd op &&& 0x4000707f#32 = encodeI (imm &&& 0x400#12) 0 f3 0 op := by
  have e : 0x4000707f#32 = (0x400#12 ++ 0#5 ++ 7#3 ++ 0#5 ++ 127#7 : BitVec (12 + 5 + 3 + 5 + 7)) := by decide
  rw [e]
  show (imm ++ rs1 ++ f3 ++ rd ++ op : BitVec (12 + 5 + 3 + 5 + 7)) &&& (0x400#12 ++ 0#5 ++ 7#3 ++ 0#5 ++ 127#7) = _
  repeat rw [append_and]
  simp only [encodeI, and_ones7, and_ones3, BitVec.and_zero]
  rfl

theorem encodeS_mask (imm : BitVec 12) (rs2 rs1 : Reg) (f3 : BitVec 3) (op : BitVec 7) :
    encodeS imm rs2 rs1 f3 op &&& 0x0000707f#32 = encodeS 0 0 0 f3 op := by
  have e : 0x0000707f#32 = (0#7 ++ 0#5 ++ 0#5 ++ 7#3 ++ 0#5 ++ 127#7 : BitVec (7 + 5 + 5 + 3 + 5 + 7)) := by decide
  rw [e]
  show (imm.extractLsb' 5 7 ++ rs2 ++ rs1 ++ f3 ++ imm.extractLsb' 0 5 ++ op : BitVec (7 + 5 + 5 + 3 + 5 + 7)) &&& (0#7 ++ 0#5 ++ 0#5 ++ 7#3 ++ 0#5 ++ 127#7) = _
  repeat rw [append_and]
  simp only [encodeS, and_ones7, and_ones3, BitVec.and_zero]
  rfl

theorem encodeB_mask (off : BitVec 13) (rs2 rs1 : Reg) (f3 : BitVec 3) (op : BitVec 7) :
    encodeB off rs2 rs1 f3 op &&& 0x0000707f#32 = encodeB 0 0 0 f3 op := by
  have e : 0x0000707f#32 = (0#1 ++ 0#6 ++ 0#5 ++ 0#5 ++ 7#3 ++ 0#4 ++ 0#1 ++ 127#7 : BitVec (1 + 6 + 5 + 5 + 3 + 4 + 1 + 7)) := by decide
  rw [e]
  show (off.extractLsb' 12 1 ++ off.extractLsb' 5 6 ++ rs2 ++ rs1 ++ f3 ++ off.extractLsb' 1 4 ++ off.extractLsb' 11 1 ++ op : BitVec (1 + 6 + 5 + 5 + 3 + 4 + 1 + 7)) &&& (0#1 ++ 0#6 ++ 0#5 ++ 0#5 ++ 7#3 ++ 0#4 ++ 0#1 ++ 127#7) = _
  repeat rw [append_and]
  simp only [encodeB, and_ones7, and_ones3, BitVec.and_zero]
  rfl

theorem encodeU_mask (imm : BitVec 20) (rd : Reg) (op : BitVec 7) :
    encodeU imm rd op &&& 0x0000007f#32 = encodeU 0 0 op := by
  have e : 0x0000007f#32 = (0#20 ++ 0#5 ++ 127#7 : BitVec (20 + 5 + 7)) := by decide
  rw [e]
  show (imm ++ rd ++ op : BitVec (20 + 5 + 7)) &&& (0#20 ++ 0#5 ++ 127#7) = _
  repeat rw [append_and]
  simp only [encodeU, and_ones7, BitVec.and_zero]
  rfl

theorem encodeJ_mask (off : BitVec 21) (rd : Reg) (op : BitVec 7) :
    encodeJ off rd op &&& 0x0000007f#32 = encodeJ 0 0 op := by
  have e : 0x0000007f#32 = (0#1 ++ 0#10 ++ 0#1 ++ 0#8 ++ 0#5 ++ 127#7 : BitVec (1 + 10 + 1 + 8 + 5 + 7)) := by decide
  rw [e]
  show (off.extractLsb' 20 1 ++ off.extractLsb' 1 10 ++ off.extractLsb' 11 1 ++ off.extractLsb' 12 8 ++ rd ++ op : BitVec (1 + 10 + 1 + 8 + 5 + 7)) &&& (0#1 ++ 0#10 ++ 0#1 ++ 0#8 ++ 0#5 ++ 127#7) = _
  repeat rw [append_and]
  simp only [encodeJ, and_ones7, BitVec.and_zero]
  rfl

/-- Bit 10 of a 12-bit field, alone. -/
theorem and_bit10 (imm : BitVec 12) : imm &&& 0x400#12 = if imm.getLsbD 10 then 0x400#12 else 0#12 := by
  revert imm
  decide

end Sys2Proof.Laws

namespace Sys2Proof.Laws.OpcodeRow

/-- The word of a well-formed instruction matches the instruction's own row of the opcode table. -/
def Statement (i : Instr) : Prop := i.WellFormed = true → i.row.holds (encode i) = true

/-- A right shift-immediate's row, by bit 10 of its field. -/
theorem shiftRow (i : Instr) (b : Bool) (imm : BitVec 12) (rs1 rd : Reg) (f3 : BitVec 3)
    (op : BitVec 7) (h : imm.getLsbD 10 = b) (he : encode i = encodeI imm rs1 f3 rd op)
    (hm : i.row.mask = 0x4000707f#32)
    (hp : encodeI (if b then 0x400#12 else 0#12) 0 f3 0 op = i.row.pattern) : i.row.holds (encode i) = true := by
  refine beq_iff_eq.2 ?_
  rw [he, hm, encodeI_mask30, and_bit10, h, hp]

theorem lui (rd : Reg) (imm : BitVec 20) : Statement (.lui rd imm) := fun _ => beq_iff_eq.2 (encodeU_mask imm rd 0b0110111)

theorem auipc (rd : Reg) (imm : BitVec 20) : Statement (.auipc rd imm) := fun _ => beq_iff_eq.2 (encodeU_mask imm rd 0b0010111)

theorem addi (rd : Reg) (rs1 : Reg) (imm : BitVec 12) : Statement (.addi rd rs1 imm) := fun _ => beq_iff_eq.2 (encodeI_mask imm rs1 0b000 rd 0b0010011)

theorem slti (rd : Reg) (rs1 : Reg) (imm : BitVec 12) : Statement (.slti rd rs1 imm) := fun _ => beq_iff_eq.2 (encodeI_mask imm rs1 0b010 rd 0b0010011)

theorem sltiu (rd : Reg) (rs1 : Reg) (imm : BitVec 12) : Statement (.sltiu rd rs1 imm) := fun _ => beq_iff_eq.2 (encodeI_mask imm rs1 0b011 rd 0b0010011)

theorem xori (rd : Reg) (rs1 : Reg) (imm : BitVec 12) : Statement (.xori rd rs1 imm) := fun _ => beq_iff_eq.2 (encodeI_mask imm rs1 0b100 rd 0b0010011)

theorem ori (rd : Reg) (rs1 : Reg) (imm : BitVec 12) : Statement (.ori rd rs1 imm) := fun _ => beq_iff_eq.2 (encodeI_mask imm rs1 0b110 rd 0b0010011)

theorem andi (rd : Reg) (rs1 : Reg) (imm : BitVec 12) : Statement (.andi rd rs1 imm) := fun _ => beq_iff_eq.2 (encodeI_mask imm rs1 0b111 rd 0b0010011)

theorem slli (rd : Reg) (rs1 : Reg) (imm : BitVec 12) : Statement (.slli rd rs1 imm) := fun _ => beq_iff_eq.2 (encodeI_mask imm rs1 0b001 rd 0b0010011)

theorem srli (rd : Reg) (rs1 : Reg) (imm : BitVec 12) : Statement (.srli rd rs1 imm) := fun h =>
  shiftRow _ false imm rs1 rd _ _ (by simpa [Instr.WellFormed] using h) rfl rfl rfl

theorem srai (rd : Reg) (rs1 : Reg) (imm : BitVec 12) : Statement (.srai rd rs1 imm) := fun h =>
  shiftRow _ true imm rs1 rd _ _ (by simpa [Instr.WellFormed] using h) rfl rfl rfl

theorem add (rd : Reg) (rs1 : Reg) (rs2 : Reg) : Statement (.add rd rs1 rs2) := fun _ => beq_iff_eq.2 (encodeR_mask 0b0000000 rs2 rs1 0b000 rd 0b0110011)

theorem sub (rd : Reg) (rs1 : Reg) (rs2 : Reg) : Statement (.sub rd rs1 rs2) := fun _ => beq_iff_eq.2 (encodeR_mask 0b0100000 rs2 rs1 0b000 rd 0b0110011)

theorem sll (rd : Reg) (rs1 : Reg) (rs2 : Reg) : Statement (.sll rd rs1 rs2) := fun _ => beq_iff_eq.2 (encodeR_mask 0b0000000 rs2 rs1 0b001 rd 0b0110011)

theorem slt (rd : Reg) (rs1 : Reg) (rs2 : Reg) : Statement (.slt rd rs1 rs2) := fun _ => beq_iff_eq.2 (encodeR_mask 0b0000000 rs2 rs1 0b010 rd 0b0110011)

theorem sltu (rd : Reg) (rs1 : Reg) (rs2 : Reg) : Statement (.sltu rd rs1 rs2) := fun _ => beq_iff_eq.2 (encodeR_mask 0b0000000 rs2 rs1 0b011 rd 0b0110011)

theorem xor (rd : Reg) (rs1 : Reg) (rs2 : Reg) : Statement (.xor rd rs1 rs2) := fun _ => beq_iff_eq.2 (encodeR_mask 0b0000000 rs2 rs1 0b100 rd 0b0110011)

theorem srl (rd : Reg) (rs1 : Reg) (rs2 : Reg) : Statement (.srl rd rs1 rs2) := fun _ => beq_iff_eq.2 (encodeR_mask 0b0000000 rs2 rs1 0b101 rd 0b0110011)

theorem sra (rd : Reg) (rs1 : Reg) (rs2 : Reg) : Statement (.sra rd rs1 rs2) := fun _ => beq_iff_eq.2 (encodeR_mask 0b0100000 rs2 rs1 0b101 rd 0b0110011)

theorem or (rd : Reg) (rs1 : Reg) (rs2 : Reg) : Statement (.or rd rs1 rs2) := fun _ => beq_iff_eq.2 (encodeR_mask 0b0000000 rs2 rs1 0b110 rd 0b0110011)

theorem and (rd : Reg) (rs1 : Reg) (rs2 : Reg) : Statement (.and rd rs1 rs2) := fun _ => beq_iff_eq.2 (encodeR_mask 0b0000000 rs2 rs1 0b111 rd 0b0110011)

theorem addiw (rd : Reg) (rs1 : Reg) (imm : BitVec 12) : Statement (.addiw rd rs1 imm) := fun _ => beq_iff_eq.2 (encodeI_mask imm rs1 0b000 rd 0b0011011)

theorem slliw (rd : Reg) (rs1 : Reg) (imm : BitVec 12) : Statement (.slliw rd rs1 imm) := fun _ => beq_iff_eq.2 (encodeI_mask imm rs1 0b001 rd 0b0011011)

theorem srliw (rd : Reg) (rs1 : Reg) (imm : BitVec 12) : Statement (.srliw rd rs1 imm) := fun h =>
  shiftRow _ false imm rs1 rd _ _ (by simpa [Instr.WellFormed] using h) rfl rfl rfl

theorem sraiw (rd : Reg) (rs1 : Reg) (imm : BitVec 12) : Statement (.sraiw rd rs1 imm) := fun h =>
  shiftRow _ true imm rs1 rd _ _ (by simpa [Instr.WellFormed] using h) rfl rfl rfl

theorem addw (rd : Reg) (rs1 : Reg) (rs2 : Reg) : Statement (.addw rd rs1 rs2) := fun _ => beq_iff_eq.2 (encodeR_mask 0b0000000 rs2 rs1 0b000 rd 0b0111011)

theorem subw (rd : Reg) (rs1 : Reg) (rs2 : Reg) : Statement (.subw rd rs1 rs2) := fun _ => beq_iff_eq.2 (encodeR_mask 0b0100000 rs2 rs1 0b000 rd 0b0111011)

theorem sllw (rd : Reg) (rs1 : Reg) (rs2 : Reg) : Statement (.sllw rd rs1 rs2) := fun _ => beq_iff_eq.2 (encodeR_mask 0b0000000 rs2 rs1 0b001 rd 0b0111011)

theorem srlw (rd : Reg) (rs1 : Reg) (rs2 : Reg) : Statement (.srlw rd rs1 rs2) := fun _ => beq_iff_eq.2 (encodeR_mask 0b0000000 rs2 rs1 0b101 rd 0b0111011)

theorem sraw (rd : Reg) (rs1 : Reg) (rs2 : Reg) : Statement (.sraw rd rs1 rs2) := fun _ => beq_iff_eq.2 (encodeR_mask 0b0100000 rs2 rs1 0b101 rd 0b0111011)

theorem mul (rd : Reg) (rs1 : Reg) (rs2 : Reg) : Statement (.mul rd rs1 rs2) := fun _ => beq_iff_eq.2 (encodeR_mask 0b0000001 rs2 rs1 0b000 rd 0b0110011)

theorem mulh (rd : Reg) (rs1 : Reg) (rs2 : Reg) : Statement (.mulh rd rs1 rs2) := fun _ => beq_iff_eq.2 (encodeR_mask 0b0000001 rs2 rs1 0b001 rd 0b0110011)

theorem mulhsu (rd : Reg) (rs1 : Reg) (rs2 : Reg) : Statement (.mulhsu rd rs1 rs2) := fun _ => beq_iff_eq.2 (encodeR_mask 0b0000001 rs2 rs1 0b010 rd 0b0110011)

theorem mulhu (rd : Reg) (rs1 : Reg) (rs2 : Reg) : Statement (.mulhu rd rs1 rs2) := fun _ => beq_iff_eq.2 (encodeR_mask 0b0000001 rs2 rs1 0b011 rd 0b0110011)

theorem div (rd : Reg) (rs1 : Reg) (rs2 : Reg) : Statement (.div rd rs1 rs2) := fun _ => beq_iff_eq.2 (encodeR_mask 0b0000001 rs2 rs1 0b100 rd 0b0110011)

theorem divu (rd : Reg) (rs1 : Reg) (rs2 : Reg) : Statement (.divu rd rs1 rs2) := fun _ => beq_iff_eq.2 (encodeR_mask 0b0000001 rs2 rs1 0b101 rd 0b0110011)

theorem rem (rd : Reg) (rs1 : Reg) (rs2 : Reg) : Statement (.rem rd rs1 rs2) := fun _ => beq_iff_eq.2 (encodeR_mask 0b0000001 rs2 rs1 0b110 rd 0b0110011)

theorem remu (rd : Reg) (rs1 : Reg) (rs2 : Reg) : Statement (.remu rd rs1 rs2) := fun _ => beq_iff_eq.2 (encodeR_mask 0b0000001 rs2 rs1 0b111 rd 0b0110011)

theorem mulw (rd : Reg) (rs1 : Reg) (rs2 : Reg) : Statement (.mulw rd rs1 rs2) := fun _ => beq_iff_eq.2 (encodeR_mask 0b0000001 rs2 rs1 0b000 rd 0b0111011)

theorem divw (rd : Reg) (rs1 : Reg) (rs2 : Reg) : Statement (.divw rd rs1 rs2) := fun _ => beq_iff_eq.2 (encodeR_mask 0b0000001 rs2 rs1 0b100 rd 0b0111011)

theorem divuw (rd : Reg) (rs1 : Reg) (rs2 : Reg) : Statement (.divuw rd rs1 rs2) := fun _ => beq_iff_eq.2 (encodeR_mask 0b0000001 rs2 rs1 0b101 rd 0b0111011)

theorem remw (rd : Reg) (rs1 : Reg) (rs2 : Reg) : Statement (.remw rd rs1 rs2) := fun _ => beq_iff_eq.2 (encodeR_mask 0b0000001 rs2 rs1 0b110 rd 0b0111011)

theorem remuw (rd : Reg) (rs1 : Reg) (rs2 : Reg) : Statement (.remuw rd rs1 rs2) := fun _ => beq_iff_eq.2 (encodeR_mask 0b0000001 rs2 rs1 0b111 rd 0b0111011)

theorem lb (rd : Reg) (rs1 : Reg) (imm : BitVec 12) : Statement (.lb rd rs1 imm) := fun _ => beq_iff_eq.2 (encodeI_mask imm rs1 0b000 rd 0b0000011)

theorem lh (rd : Reg) (rs1 : Reg) (imm : BitVec 12) : Statement (.lh rd rs1 imm) := fun _ => beq_iff_eq.2 (encodeI_mask imm rs1 0b001 rd 0b0000011)

theorem lw (rd : Reg) (rs1 : Reg) (imm : BitVec 12) : Statement (.lw rd rs1 imm) := fun _ => beq_iff_eq.2 (encodeI_mask imm rs1 0b010 rd 0b0000011)

theorem ld (rd : Reg) (rs1 : Reg) (imm : BitVec 12) : Statement (.ld rd rs1 imm) := fun _ => beq_iff_eq.2 (encodeI_mask imm rs1 0b011 rd 0b0000011)

theorem lbu (rd : Reg) (rs1 : Reg) (imm : BitVec 12) : Statement (.lbu rd rs1 imm) := fun _ => beq_iff_eq.2 (encodeI_mask imm rs1 0b100 rd 0b0000011)

theorem lhu (rd : Reg) (rs1 : Reg) (imm : BitVec 12) : Statement (.lhu rd rs1 imm) := fun _ => beq_iff_eq.2 (encodeI_mask imm rs1 0b101 rd 0b0000011)

theorem lwu (rd : Reg) (rs1 : Reg) (imm : BitVec 12) : Statement (.lwu rd rs1 imm) := fun _ => beq_iff_eq.2 (encodeI_mask imm rs1 0b110 rd 0b0000011)

theorem sb (rs1 : Reg) (rs2 : Reg) (imm : BitVec 12) : Statement (.sb rs1 rs2 imm) := fun _ => beq_iff_eq.2 (encodeS_mask imm rs2 rs1 0b000 0b0100011)

theorem sh (rs1 : Reg) (rs2 : Reg) (imm : BitVec 12) : Statement (.sh rs1 rs2 imm) := fun _ => beq_iff_eq.2 (encodeS_mask imm rs2 rs1 0b001 0b0100011)

theorem sw (rs1 : Reg) (rs2 : Reg) (imm : BitVec 12) : Statement (.sw rs1 rs2 imm) := fun _ => beq_iff_eq.2 (encodeS_mask imm rs2 rs1 0b010 0b0100011)

theorem sd (rs1 : Reg) (rs2 : Reg) (imm : BitVec 12) : Statement (.sd rs1 rs2 imm) := fun _ => beq_iff_eq.2 (encodeS_mask imm rs2 rs1 0b011 0b0100011)

theorem jal (rd : Reg) (off : BitVec 21) : Statement (.jal rd off) := fun _ => beq_iff_eq.2 (encodeJ_mask off rd 0b1101111)

theorem jalr (rd : Reg) (rs1 : Reg) (imm : BitVec 12) : Statement (.jalr rd rs1 imm) := fun _ => beq_iff_eq.2 (encodeI_mask imm rs1 0b000 rd 0b1100111)

theorem beq (rs1 : Reg) (rs2 : Reg) (off : BitVec 13) : Statement (.beq rs1 rs2 off) := fun _ => beq_iff_eq.2 (encodeB_mask off rs2 rs1 0b000 0b1100011)

theorem bne (rs1 : Reg) (rs2 : Reg) (off : BitVec 13) : Statement (.bne rs1 rs2 off) := fun _ => beq_iff_eq.2 (encodeB_mask off rs2 rs1 0b001 0b1100011)

theorem blt (rs1 : Reg) (rs2 : Reg) (off : BitVec 13) : Statement (.blt rs1 rs2 off) := fun _ => beq_iff_eq.2 (encodeB_mask off rs2 rs1 0b100 0b1100011)

theorem bge (rs1 : Reg) (rs2 : Reg) (off : BitVec 13) : Statement (.bge rs1 rs2 off) := fun _ => beq_iff_eq.2 (encodeB_mask off rs2 rs1 0b101 0b1100011)

theorem bltu (rs1 : Reg) (rs2 : Reg) (off : BitVec 13) : Statement (.bltu rs1 rs2 off) := fun _ => beq_iff_eq.2 (encodeB_mask off rs2 rs1 0b110 0b1100011)

theorem bgeu (rs1 : Reg) (rs2 : Reg) (off : BitVec 13) : Statement (.bgeu rs1 rs2 off) := fun _ => beq_iff_eq.2 (encodeB_mask off rs2 rs1 0b111 0b1100011)

theorem ecall : Statement .ecall := fun _ => beq_iff_eq.2 rfl

theorem ebreak : Statement .ebreak := fun _ => beq_iff_eq.2 rfl

end Sys2Proof.Laws.OpcodeRow
end

