-- ==== Sys2Proof/Laws/Step.lean ====
section
/-! SUPPORT. What one instruction, one ECALL, one W or M stage, one cycle and one step can do, each said once. -/

namespace Sys2Proof.Machine

/-- The Execute phase the pipelined engine runs is the one the atomic meaning finishes (70_reset_and_hazards.md R261). -/
theorem exec_executeInstr (i : Instr) (s : State) (h : i ≠ .ecall) :
    exec i s = finish
      (executeInstr s.cfg i
        (match i.src1 with | some r => s.reg r | none => 0) (match i.src2 with | some r => s.reg r | none => 0) s.pc)
      (i.destField.getD 0) s := by
  cases i <;> first
    | exact absurd rfl h
    | rfl

/-- Every instruction but ECALL is one shape of Execute, finished (40_execution_step.md R95, R98). -/
theorem exec_finish (i : Instr) (s : State) (h : i ≠ .ecall) : ∃ x rd, exec i s = finish x rd s :=
  ⟨_, _, exec_executeInstr i s h⟩

/-- Everything the effect of an ECALL can be (45_system.md R200): a hold; a stop; or a service that is done and whose
result is committed, with FINISHED for EXIT. -/
theorem ecallEffect_done {s t : State} {res : Word} (h : ecallEffect s = .done res t) :
    ∃ v u w, serviceOf s.cfg.sysno (s.reg s.cfg.sysNumReg) = some v ∧
      runService v (s.reg s.cfg.sysArgReg) s = .done res u ∧ commit s.cfg.sysResReg res u = .ok w ∧
      t = if v = .exit then { w with finished := true } else w := by
  unfold ecallEffect at h
  split at h
  · cases h
  · rename_i v hv
    split at h
    · cases h
    · cases h
    · rename_i r u hu
      unfold commitResult at h
      split at h
      · cases h
      · rename_i w hw
        cases h
        exact ⟨v, u, w, hv, hu, hw, rfl⟩

/-- An ECALL that stops keeps console output only of PRINT_STRING (60_exceptions.md R232). -/
theorem ecallEffect_stops {s : State} {e : StopReason} {out : List Byte} (h : ecallEffect s = .stops e out) :
    out = [] ∨ s.reg s.cfg.sysNumReg = s.cfg.sysno.printString := by
  unfold ecallEffect at h
  split at h
  · cases h; exact .inl rfl
  · rename_i v hv
    by_cases p : v = .printString
    · refine .inr ?_
      subst p
      unfold serviceOf at hv
      split at hv
      · cases hv
      · split at hv
        · cases hv
        · split at hv
          · assumption
          · repeat' (split at hv; · cases hv)
            cases hv
    · left
      split at h
      · cases h
      · rename_i e' out' hr
        cases h
        cases v <;> first
          | exact absurd rfl p
          | cases hr
          | (unfold runService serviceReadInt at hr; dsimp only at hr; split at hr <;> cases hr)
          | (unfold runService serviceReadChar at hr; dsimp only at hr; split at hr <;> cases hr)
          | (unfold runService serviceSbrk at hr; dsimp only at hr; split at hr <;> cases hr; rfl)
      · unfold commitResult keptOutput at h
        split at h
        · cases h; rw [if_neg p]
        · cases h

/-- Where an ECALL is done, the fields no service touches are as they were. -/
theorem ecallEffect_fields {s t : State} {res : Word} (h : ecallEffect s = .done res t) :
    t.cfg = s.cfg ∧ t.pc = s.pc ∧ t.stop = s.stop ∧ t.hold = s.hold ∧ t.icount = s.icount ∧ t.cycles = s.cycles ∧
      t.breakpoints = s.breakpoints ∧ t.resuming = s.resuming ∧
      t.fl = s.fl ∧ t.dl = s.dl ∧ t.el = s.el ∧ t.ml = s.ml ∧ t.wl = s.wl := by
  obtain ⟨v, u, w, -, hu, hw, rfl⟩ := ecallEffect_done h
  obtain ⟨u1, -, u3, u4, u5, -, u7, u8, u9, u10, u11, u12, u13, u14, u15⟩ := runService_done hu
  split <;>
    simp [commit_cfg hw, commit_pc hw, commit_stop hw, commit_hold hw, commit_icount hw, commit_cycles hw,
      commit_breakpoints hw, commit_resuming hw, commit_fl hw, commit_dl hw, commit_el hw, commit_ml hw, commit_wl hw,
      u1, u3, u4, u5, u7, u8, u9, u10, u11, u12, u13, u14, u15]

/-- Where an ECALL is done, memory is still in its canonical form. -/
theorem ecallEffect_wf {s t : State} {res : Word} (h : ecallEffect s = .done res t) (w : s.mem.wf s.cfg = true) :
    t.mem.wf t.cfg = true := by
  obtain ⟨v, u, x, -, hu, hx, rfl⟩ := ecallEffect_done h
  have k := commit_wf hx (runService_wf hu w)
  split <;> exact k

/-! ### The stages -/

@[simp] theorem decodeRecord_sub (w : InstWord) : (decodeRecord w).sub = decode w := rfl
@[simp] theorem decodeRecord_raw (w : InstWord) : (decodeRecord w).raw = w := rfl
@[simp] theorem recordOfWord_nothing : recordOfWord .nothing = true := rfl

/-- A decoded record is the record of its own word (30_encoding.md R82). -/
@[simp] theorem recordOfWord_decodeRecord (w : InstWord) : recordOfWord (decodeRecord w) = true := by
  unfold recordOfWord
  rw [decodeRecord_raw, decide_eq_true rfl, Bool.or_true]

/-- The record the D stage hands to E is NONE or its word's (70_reset_and_hazards.md R262). -/
theorem dStage_record (s : State) (mn wn : MemoryLatch) : recordOfWord (dStage s mn wn).en.d = true := by
  unfold dStage
  split
  · exact recordOfWord_nothing
  · split
    · exact recordOfWord_nothing
    · exact recordOfWord_decodeRecord _

/-- For a bubble and a tagged latch the E stage gives no result (70_reset_and_hazards.md R261). -/
theorem eStage_idle (c : Config) (e : ExecuteLatch) (h : e.valid = false ∨ e.exc ≠ none) :
    eStage c e = { mn := passExecute e, mispredict := false, corr := e.pc + 4 } := by
  unfold eStage
  rw [if_neg]
  rintro ⟨v, x⟩
  rcases h with h | h
  · rw [v] at h; cases h
  · exact h x

/-- For a valid untagged latch the E stage hands on what Execute gave (70_reset_and_hazards.md R261). -/
theorem eStage_active (c : Config) (e : ExecuteLatch) (v : e.valid = true) (x : e.exc = none) :
    (eStage c e).mn = latchExecuted (passExecute e) (executeDecoded c e.d.sub e.a e.b e.pc) := by
  unfold eStage
  rw [if_pos ⟨v, x⟩]

/-- The E stage hands its record on (70_reset_and_hazards.md R261). -/
@[simp] theorem eStage_record (c : Config) (e : ExecuteLatch) : (eStage c e).mn.d = e.d := by
  unfold eStage
  split
  · dsimp only
    generalize executeDecoded c e.d.sub e.a e.b e.pc = x
    cases x <;> rfl
  · rfl

/-- Where the W stage goes on, the fields it never writes are as they were. -/
theorem wStage_goesOn {s u : State} {ecall : Bool} (h : wStage s = .goesOn u ecall) :
    u.cfg = s.cfg ∧ u.stop = s.stop ∧ u.hold = s.hold ∧ u.cycles = s.cycles ∧ u.breakpoints = s.breakpoints ∧
      u.resuming = s.resuming ∧ u.fl = s.fl ∧ u.dl = s.dl ∧ u.el = s.el ∧ u.ml = s.ml ∧ u.wl = s.wl := by
  unfold wStage at h
  split at h
  · cases h; simp
  · split at h
    · cases h
    · split at h
      · split at h
        · cases h
        · cases h
        · rename_i t e
          obtain ⟨t1, t2, t3, t4, t5, t6, t7, t8, t9, t10, t11, t12, t13⟩ := ecallEffect_fields e
          split at h
          · cases h
          · cases h; simp [t1, t3, t4, t6, t7, t8, t9, t10, t11, t12, t13]
      · split at h
        · cases h; simp
        · split at h
          · cases h
          · rename_i hc
            cases h
            simp [commit_cfg hc, commit_stop hc, commit_hold hc, commit_cycles hc, commit_breakpoints hc,
              commit_resuming hc, commit_fl hc, commit_dl hc, commit_el hc, commit_ml hc, commit_wl hc]

/-- The W stage reports an ECALL exactly where a valid, untagged ECALL is in W. -/
theorem wStage_goesOn_ecall {s u : State} {ecall : Bool} (h : wStage s = .goesOn u ecall) :
    ecall = (s.wl.valid && s.wl.d.sub.isEcall) := by
  unfold wStage at h
  split at h
  · rename_i v; cases h; simp [v]
  · rename_i v
    split at h
    · cases h
    · split at h
      · rename_i d
        split at h
        · cases h
        · cases h
        · split at h
          · cases h
          · cases h; simp [d, v]
      · rename_i d
        split at h
        · cases h; simp [d]
        · split at h
          · cases h
          · cases h; simp [d]

/-- Where the M stage goes on, memory is as it was or a store wrote it, and only the value of the latch may change
(70_reset_and_hazards.md R260). -/
theorem mStage_ok {c : Config} {m : Memory} {l : MemoryLatch} {r : MResult} (h : mStage c m l = .ok r) :
    (r.mem = m ∨ ∃ k, memWrite c m l.addr (StoreKind.bytes k) l.sdata = .ok r.mem) ∧ ∃ v, r.wn = { l with value := v } := by
  unfold mStage at h
  split at h
  · split at h
    · split at h
      · cases h
      · cases h; exact ⟨.inl rfl, _, rfl⟩
    · split at h
      · rename_i k _
        split at h
        · cases h
        · rename_i hm; cases h; exact ⟨.inr ⟨k, hm⟩, l.value, rfl⟩
      · cases h; exact ⟨.inl rfl, l.value, rfl⟩
  · cases h; exact ⟨.inl rfl, l.value, rfl⟩

/-! ### A cycle and a step -/

/-- Everything a cycle can do: hold; stop or finish in W; stop in M; or tick. -/
theorem cycle_cases (s : State) :
    (wStage s = .holds ∧ cycle s = .next s.holdForInput) ∨
    (∃ e t, wStage s = .stops e t ∧ cycle s = .next ((t.raise e s.wl.pc).addCycles 1)) ∨
    (∃ t, wStage s = .finished t ∧ cycle s = .next (t.addCycles (1 + s.cfg.sysLat))) ∨
    (∃ t b e, wStage s = .goesOn t b ∧ mStage t.cfg t.mem t.ml = .error e ∧
      cycle s = .next ((t.raise e s.ml.pc).addCycles 1)) ∨
    (∃ t b r, wStage s = .goesOn t b ∧ mStage t.cfg t.mem t.ml = .ok r ∧ cycle s = .next (tick b r.wn (t.setMem r.mem))) := by
  unfold cycle
  cases h : wStage s with
  | holds => exact .inl ⟨rfl, rfl⟩
  | stops e t => exact .inr (.inl ⟨e, t, rfl, rfl⟩)
  | finished t => exact .inr (.inr (.inl ⟨t, rfl, rfl⟩))
  | goesOn t b =>
    cases hm : mStage t.cfg t.mem t.ml with
    | error e => exact .inr (.inr (.inr (.inl ⟨t, b, e, rfl, hm, by simp [hm]⟩)))
    | ok r => exact .inr (.inr (.inr (.inr ⟨t, b, r, rfl, hm, by simp [hm]⟩)))

/-- A step is performed where the machine runs, and else answers the same state, or the pause. -/
theorem step_cases (s : State) :
    (s.runs = true ∧ step s = afterStep (engineStep s)) ∨
    (s.runs = false ∧ (step s = .next s ∨ step s = .next s.pause)) := by
  unfold step stepOnce State.runs
  by_cases h1 : (s.ended || s.hold) = true
  · right
    rw [if_pos h1]
    refine ⟨?_, .inl rfl⟩
    rcases Bool.or_eq_true _ _ ▸ h1 with e | e <;> simp [e]
  · rw [if_neg h1]
    have h1' : s.ended = false ∧ s.hold = false := by simpa using h1
    by_cases h2 : (s.atCheckPoint && !s.resuming) = true
    · right
      rw [if_pos h2]
      exact ⟨by rw [h2]; simp, .inr rfl⟩
    · left
      rw [if_neg h2]
      have h2' : (s.atCheckPoint && !s.resuming) = false := by simpa using h2
      exact ⟨by rw [h2', h1'.1, h1'.2]; rfl, rfl⟩

/-- A pipelined cycle that ticks went through W and M (70_reset_and_hazards.md R258). -/
theorem ticks_cases {s t : State} (h : s.ticks t) :
    ∃ u b r, wStage s = .goesOn u b ∧ mStage u.cfg u.mem u.ml = .ok r ∧ t = (tick b r.wn (u.setMem r.mem)).endResume := by
  obtain ⟨hm, hr, hs, hh, he⟩ := h
  obtain ⟨_, hs'⟩ | ⟨hr', _⟩ := step_cases s
  · rw [hs] at hs'
    have hc : engineStep s = cycle s := by unfold engineStep; rw [hm]
    rw [hc] at hs'
    obtain ⟨_, e⟩ | ⟨e, u, _, e'⟩ | ⟨u, hw, e⟩ | ⟨u, b, e, _, _, e'⟩ | ⟨u, b, r, h1, h2, e⟩ := cycle_cases s
    · rw [e] at hs'; cases hs'; simp at hh
    · rw [e'] at hs'; cases hs'; simp [State.ended] at he
    · rw [e] at hs'
      cases hs'
      have : u.finished = true := by
        unfold wStage at hw
        split at hw
        · cases hw
        · split at hw
          · cases hw
          · split at hw
            · split at hw
              · cases hw
              · cases hw
              · split at hw
                · rename_i hf; cases hw; exact hf
                · cases hw
            · split at hw
              · cases hw
              · split at hw <;> cases hw
      simp [State.ended, this] at he
    · rw [e'] at hs'; cases hs'; simp [State.ended] at he
    · rw [e] at hs'; cases hs'; exact ⟨u, b, r, h1, h2, rfl⟩
  · rw [hr] at hr'; cases hr'

/-- The M latch a cycle that ticks leaves is what the E stage gave for the latch it started with. -/
theorem ticks_ml {s t : State} (h : s.ticks t) : t.ml = (eStage s.cfg s.el).mn := by
  obtain ⟨u, b, r, h1, h2, rfl⟩ := ticks_cases h
  obtain ⟨a1, -, -, -, -, -, -, -, a9, -, -⟩ := wStage_goesOn h1
  show (eStage u.cfg u.el).mn = _
  rw [a1, a9]

/-- The state before the E, D and F stages of a cycle that ticks has the latches, the configuration and the status of its
start. -/
theorem ticks_before {s u : State} {b : Bool} (m : Memory) (h : wStage s = .goesOn u b) :
    let v := u.setMem m
    v.cfg = s.cfg ∧ v.fl = s.fl ∧ v.dl = s.dl ∧ v.el = s.el ∧ v.ml = s.ml ∧ v.wl = s.wl ∧ v.cycles = s.cycles := by
  obtain ⟨a1, -, -, a4, -, -, a7, a8, a9, a10, a11⟩ := wStage_goesOn h
  simp [a1, a4, a7, a8, a9, a10, a11]

end Sys2Proof.Machine
end

