-- ==== Sys2Proof/Tests/Slice0.lean ====
section
/-! SUPPORT. The model's own tests. Expected values come from the spec: the encodings of 30_encoding.md R72-R80, the
examples of the instruction rules, and 95_test_vectors.md. After them, the witnesses of the hypotheses of every statement
of Certificates/Slice0/Obligations.lean. -/

namespace Sys2Proof.Tests

open Sys2Proof Sys2Proof.Machine

/-! ### WellFormed: one ill-formed term for each check -/

/-- An odd branch offset (30_encoding.md R75). -/
theorem test_illformed_branch : (Instr.beq 1 2 5).WellFormed = false := by decide
theorem test_illformed_bne : (Instr.bne 1 2 1).WellFormed = false := by decide
theorem test_illformed_blt : (Instr.blt 1 2 3).WellFormed = false := by decide
theorem test_illformed_bge : (Instr.bge 1 2 0x1FFF).WellFormed = false := by decide
theorem test_illformed_bltu : (Instr.bltu 1 2 7).WellFormed = false := by decide
theorem test_illformed_bgeu : (Instr.bgeu 1 2 9).WellFormed = false := by decide
/-- An odd JAL offset (R77). -/
theorem test_illformed_jal : (Instr.jal 1 0x1FFFFF).WellFormed = false := by decide
/-- Bit 30 of the word set in a logical right shift, or clear in an arithmetic one (R80). -/
theorem test_illformed_srli : (Instr.srli 1 2 0x400).WellFormed = false := by decide
theorem test_illformed_srliw : (Instr.srliw 1 2 0x41F).WellFormed = false := by decide
theorem test_illformed_srai : (Instr.srai 1 2 0x3F).WellFormed = false := by decide
theorem test_illformed_sraiw : (Instr.sraiw 1 2 0x01F).WellFormed = false := by decide
/-- Well-formed at the ends of the ranges (R75, R77). -/
theorem test_wellformed_ends : (Instr.beq 31 0 0x1000).WellFormed = true ∧ (Instr.jal 31 0x100000).WellFormed = true ∧
    (Instr.srai 0 31 0x7FF).WellFormed = true ∧ (Instr.srli 0 31 0xBFF).WellFormed = true := by decide

/-! ### Decoding: one word for each constructor, written out from the formats (R72-R77) and the field values of R80 -/

theorem test_decode_upper :
    decode 0b10000010001101000101_01010_0110111#32 = .instr (.lui 10 0x82345) ∧
    decode 0b10000011010001010110_10001_0010111#32 = .instr (.auipc 17 0x83456) := by decide

theorem test_decode_op_imm :
    decode 0b111101000110_00110_000_11000_0010011#32 = .instr (.addi 24 6 0xf46) ∧
    decode 0b000001010101_10001_010_11111_0010011#32 = .instr (.slti 31 17 0x55) ∧
    decode 0b000101100100_11100_011_00110_0010011#32 = .instr (.sltiu 6 28 0x164) ∧
    decode 0b001001110011_00111_100_01101_0010011#32 = .instr (.xori 13 7 0x273) ∧
    decode 0b001110000010_10010_110_10100_0010011#32 = .instr (.ori 20 18 0x382) ∧
    decode 0b010010010001_11101_111_11011_0010011#32 = .instr (.andi 27 29 0x491) ∧
    decode 0b010110100000_01000_001_00010_0010011#32 = .instr (.slli 2 8 0x5a0) ∧
    decode 0b001010101111_10011_101_01001_0010011#32 = .instr (.srli 9 19 0x2af) ∧
    decode 0b011110111110_11110_101_10000_0010011#32 = .instr (.srai 16 30 0x7be) := by decide

theorem test_decode_op :
    decode 0b0000000_00101_01001_000_10111_0110011#32 = .instr (.add 23 9 5) ∧
    decode 0b0100000_10010_10100_000_11110_0110011#32 = .instr (.sub 30 20 18) ∧
    decode 0b0000000_11111_11111_001_00101_0110011#32 = .instr (.sll 5 31 31) ∧
    decode 0b0000000_01100_01010_010_01100_0110011#32 = .instr (.slt 12 10 12) ∧
    decode 0b0000000_11001_10101_011_10011_0110011#32 = .instr (.sltu 19 21 25) ∧
    decode 0b0000000_00110_00000_100_11010_0110011#32 = .instr (.xor 26 0 6) ∧
    decode 0b0000000_10011_01011_101_00001_0110011#32 = .instr (.srl 1 11 19) ∧
    decode 0b0100000_00000_10110_101_01000_0110011#32 = .instr (.sra 8 22 0) ∧
    decode 0b0000000_01101_00001_110_01111_0110011#32 = .instr (.or 15 1 13) ∧
    decode 0b0000000_11010_01100_111_10110_0110011#32 = .instr (.and 22 12 26) := by decide

theorem test_decode_op_imm_32 :
    decode 0b001101100011_10111_000_11101_0011011#32 = .instr (.addiw 29 23 0x363) ∧
    decode 0b010001110010_00010_001_00100_0011011#32 = .instr (.slliw 4 2 0x472) ∧
    decode 0b000110000001_01101_101_01011_0011011#32 = .instr (.srliw 11 13 0x181) ∧
    decode 0b011010010000_11000_101_10010_0011011#32 = .instr (.sraiw 18 24 0x690) := by decide

theorem test_decode_op_32 :
    decode 0b0000000_11011_00011_000_11001_0111011#32 = .instr (.addw 25 3 27) ∧
    decode 0b0100000_01000_01110_000_00000_0111011#32 = .instr (.subw 0 14 8) ∧
    decode 0b0000000_10101_11001_001_00111_0111011#32 = .instr (.sllw 7 25 21) ∧
    decode 0b0000000_00010_00100_101_01110_0111011#32 = .instr (.srlw 14 4 2) ∧
    decode 0b0100000_01111_01111_101_10101_0111011#32 = .instr (.sraw 21 15 15) := by decide

theorem test_decode_muldiv :
    decode 0b0000001_11100_11010_000_11100_0110011#32 = .instr (.mul 28 26 28) ∧
    decode 0b0000001_01001_00101_001_00011_0110011#32 = .instr (.mulh 3 5 9) ∧
    decode 0b0000001_10110_10000_010_01010_0110011#32 = .instr (.mulhsu 10 16 22) ∧
    decode 0b0000001_00011_11011_011_10001_0110011#32 = .instr (.mulhu 17 27 3) ∧
    decode 0b0000001_10000_00110_100_11000_0110011#32 = .instr (.div 24 6 16) ∧
    decode 0b0000001_11101_10001_101_11111_0110011#32 = .instr (.divu 31 17 29) ∧
    decode 0b0000001_01010_11100_110_00110_0110011#32 = .instr (.rem 6 28 10) ∧
    decode 0b0000001_10111_00111_111_01101_0110011#32 = .instr (.remu 13 7 23) := by decide

theorem test_decode_muldiv_32 :
    decode 0b0000001_00100_10010_000_10100_0111011#32 = .instr (.mulw 20 18 4) ∧
    decode 0b0000001_10001_11101_100_11011_0111011#32 = .instr (.divw 27 29 17) ∧
    decode 0b0000001_11110_01000_101_00010_0111011#32 = .instr (.divuw 2 8 30) ∧
    decode 0b0000001_01011_10011_110_01001_0111011#32 = .instr (.remw 9 19 11) ∧
    decode 0b0000001_11000_11110_111_10000_0111011#32 = .instr (.remuw 16 30 24) := by decide

theorem test_decode_loads :
    decode 0b101010101101_01001_000_10111_0000011#32 = .instr (.lb 23 9 0xaad) ∧
    decode 0b101110111100_10100_001_11110_0000011#32 = .instr (.lh 30 20 0xbbc) ∧
    decode 0b110011001011_11111_010_00101_0000011#32 = .instr (.lw 5 31 0xccb) ∧
    decode 0b110111011010_01010_011_01100_0000011#32 = .instr (.ld 12 10 0xdda) ∧
    decode 0b111011101001_10101_100_10011_0000011#32 = .instr (.lbu 19 21 0xee9) ∧
    decode 0b111111111000_00000_101_11010_0000011#32 = .instr (.lhu 26 0 0xff8) ∧
    decode 0b000100000111_01011_110_00001_0000011#32 = .instr (.lwu 1 11 0x107) := by decide

theorem test_decode_stores :
    decode 0b1110100_00000_10110_000_00001_0100011#32 = .instr (.sb 22 0 0xe81) ∧
    decode 0b1110111_01101_00001_001_00010_0100011#32 = .instr (.sh 1 13 0xee2) ∧
    decode 0b1111010_11010_01100_010_00011_0100011#32 = .instr (.sw 12 26 0xf43) ∧
    decode 0b1111101_00111_10111_011_00100_0100011#32 = .instr (.sd 23 7 0xfa4) := by decide

theorem test_decode_jumps :
    decode 0b1_0000000001_1_11001000_00100_1101111#32 = .instr (.jal 4 (-227326)) ∧
    decode 0b011101100001_01101_000_01011_1100111#32 = .instr (.jalr 11 13 0x761) := by decide

theorem test_decode_branches :
    decode 0b1_101000_01110_11000_000_0100_1_1100011#32 = .instr (.beq 24 14 (15624)) ∧
    decode 0b1_110001_11011_00011_001_1111_1_1100011#32 = .instr (.bne 3 27 (15934)) ∧
    decode 0b1_111011_01000_01110_100_1010_1_1100011#32 = .instr (.blt 14 8 (16244)) ∧
    decode 0b0_000101_10101_11001_101_0101_0_1100011#32 = .instr (.bge 25 21 (16554)) ∧
    decode 0b0_001111_00010_00100_110_0000_0_1100011#32 = .instr (.bltu 4 2 (16864)) ∧
    decode 0b0_011000_01111_01111_111_1011_0_1100011#32 = .instr (.bgeu 15 15 (17174)) := by decide

theorem test_decode_system : decode 0b000000000000_00000_000_00000_1110011#32 = .instr .ecall ∧
    decode 0b000000000001_00000_000_00000_1110011#32 = .instr .ebreak := by decide

/-- 95_test_vectors.md: CSRRW, MRET, FENCE, an AMO, a reserved funct3 of each opcode, and the all-zero word. -/
theorem test_decode_unimplemented :
    decode 0x30051073#32 = .unimplemented ∧ decode 0x30200073#32 = .unimplemented ∧
    decode 0x0000000F#32 = .unimplemented ∧ decode 0x00B5252F#32 = .unimplemented ∧
    decode 0b000000000000_00001_111_00010_0000011#32 = .unimplemented ∧
    decode 0b0000000_00001_00001_100_00010_0100011#32 = .unimplemented ∧
    decode 0b0000000_00001_00001_010_00010_1100011#32 = .unimplemented ∧
    decode 0b000000000000_00001_001_00010_1100111#32 = .unimplemented ∧
    decode 0b0100000_00001_00001_001_00010_0110011#32 = .unimplemented ∧
    decode 0b0000001_00001_00001_001_00010_0111011#32 = .unimplemented ∧ decode 0#32 = .unimplemented := by decide

/-- 30_encoding.md R88: a shift-immediate whose unchecked bits are set is still the shift. -/
theorem test_decode_reserved_shift : decode 0b111011_000001_00101_001_00110_0010011#32 = .instr (.slli 6 5 0xEC1) ∧
    decode 0b0000001_00000_00101_101_00110_0011011#32 = .instr (.srliw 6 5 0x020) := by decide

/-- The record of R82: the register fields come from their positions, the immediate from the format. -/
theorem test_record : (decodeRecord 0xFFF28313#32).imm = 0xFFFFFFFFFFFFFFFF#64 ∧ (decodeRecord 0xFFF28313#32).rd = 6 ∧
    (decodeRecord 0xFFF28313#32).rs2 = 31 ∧ (decodeRecord 0#32).fmt = .r := by decide

/-- Bytes of a word, little end first (20_memory.md R44). -/
theorem test_decode_bytes : decodeBytes [0x13, 0x83, 0xF2, 0xFF, 0xAA] = some (.instr (.addi 6 5 0xFFF), [0xAA]) ∧
    decodeBytes [0x13, 0x83, 0xF2] = none := by decide
theorem test_decode_table_word : decodeTableWord 32 0x00000073 = some .ecall ∧ decodeTableWord 32 0 = none := by decide

/-- The 64 rows are those of 64 different mnemonics. -/
theorem test_rows : tableRows.length = 64 ∧ (tableRows.map (·.pattern)).Nodup := by decide

/-! ### States of one step -/

/-- A code page at 0x1000 and a writable data page at 0x2000. -/
def pages2 : List Page := [{ base := 0x1000, writable := false, executable := true, fill := .zero },
  { base := 0x2000, writable := true, executable := false, fill := .zero }]

/-- The default launch with those pages, these bytes and these registers; the pc is 0x1000. -/
def at2 (rs : List (Reg × Word)) (cells : List Host.Cell) : State :=
  rs.foldl (fun s r => s.setReg r.1 r.2)
    (State.initial Config.default { pages := pages2, cells := cells } [] (Vector.replicate 32 0))

/-- The same with another configuration. -/
def with2 (c : Config) (rs : List (Reg × Word)) (cells : List Host.Cell) : State := { at2 rs cells with cfg := c }

/-- The state an outcome leaves, `s` where it is no next state. -/
def nextOr (s : State) : StepOutcome → State
  | .next t => t
  | .fault _ => s
  | .refused _ => s

/-- The state an instruction leaves. -/
def after (i : Instr) (s : State) : State := nextOr s (exec i s)

/-- The reason of the stop an instruction leaves. -/
def stopAfter (i : Instr) (s : State) : Option StopReason := (after i s).stop.map (·.reason)

/-- The state a step leaves. -/
def stepped (s : State) : State := nextOr s (step s)

/-- What byte an address of the state holds. -/
def byteOf (s : State) (a : Nat) : Option Byte := byteAt s.cfg s.mem a

/-! ### Integer instructions: the examples of 41_integer.md and 42_muldiv.md -/

theorem test_lui : (after (.lui 5 0x80000) (at2 [] [])).reg 5 = 0xffffffff80000000#64 := by decide
theorem test_auipc : (after (.auipc 5 0x1) (at2 [] [])).reg 5 = 0x2000#64 := by decide
theorem test_auipc_negative : (after (.auipc 5 0xFFFFF) (at2 [] [])).reg 5 = 0x0#64 := by decide
theorem test_addi_wraps : (after (.addi 6 5 1) (at2 [(5, 0xffffffffffffffff#64)] [])).reg 6 = 0x0#64 := by decide
theorem test_addi_negative : (after (.addi 6 5 (-2048)) (at2 [(5, 0x0#64)] [])).reg 6 = 0xfffffffffffff800#64 := by decide
theorem test_slti : (after (.slti 6 5 (-4)) (at2 [(5, 0xfffffffffffffffb#64)] [])).reg 6 = 0x1#64 := by decide
theorem test_slti_equal : (after (.slti 6 5 (-5)) (at2 [(5, 0xfffffffffffffffb#64)] [])).reg 6 = 0x0#64 := by decide
theorem test_sltiu_extended : (after (.sltiu 6 5 (-1)) (at2 [(5, 0x1#64)] [])).reg 6 = 0x1#64 := by decide
theorem test_sltiu_max : (after (.sltiu 6 5 (-1)) (at2 [(5, 0xffffffffffffffff#64)] [])).reg 6 = 0x0#64 := by decide
theorem test_xori_not : (after (.xori 6 5 (-1)) (at2 [(5, 0xf#64)] [])).reg 6 = 0xfffffffffffffff0#64 := by decide
theorem test_ori : (after (.ori 6 5 0x0F) (at2 [(5, 0xf0#64)] [])).reg 6 = 0xff#64 := by decide
theorem test_andi : (after (.andi 6 5 0x7FF) (at2 [(5, 0xffff#64)] [])).reg 6 = 0x7ff#64 := by decide
theorem test_ori_negative : (after (.ori 6 5 (-2048)) (at2 [(5, 0x1#64)] [])).reg 6 = 0xfffffffffffff801#64 := by decide
theorem test_andi_negative : (after (.andi 6 5 (-16)) (at2 [(5, 0x12345#64)] [])).reg 6 = 0x12340#64 := by decide
theorem test_slli : (after (.slli 6 5 63) (at2 [(5, 0x1#64)] [])).reg 6 = 0x8000000000000000#64 := by decide
theorem test_srli : (after (.srli 6 5 63) (at2 [(5, 0x8000000000000000#64)] [])).reg 6 = 0x1#64 := by decide
theorem test_srai : (after (.srai 6 5 0x43F) (at2 [(5, 0x8000000000000000#64)] [])).reg 6 = 0xffffffffffffffff#64 := by decide
theorem test_slli_zero : (after (.slli 6 5 0) (at2 [(5, 0xffffffffffffffff#64)] [])).reg 6 = 0xffffffffffffffff#64 := by decide
theorem test_add_wraps : (after (.add 7 5 6) (at2 [(5, 0x7fffffffffffffff#64), (6, 0x1#64)] [])).reg 7 = 0x8000000000000000#64 := by decide
theorem test_add_same : (after (.add 5 5 5) (at2 [(5, 0x15#64)] [])).reg 5 = 0x2a#64 := by decide
theorem test_sub : (after (.sub 7 0 6) (at2 [(6, 0x1#64)] [])).reg 7 = 0xffffffffffffffff#64 := by decide
theorem test_sub_min : (after (.sub 7 5 6) (at2 [(5, 0x0#64), (6, 0x8000000000000000#64)] [])).reg 7 = 0x8000000000000000#64 := by decide
theorem test_sll : (after (.sll 7 5 6) (at2 [(5, 0x1#64), (6, 0x41#64)] [])).reg 7 = 0x2#64 := by decide
theorem test_slt : (after (.slt 7 5 6) (at2 [(5, 0xffffffffffffffff#64), (6, 0x1#64)] [])).reg 7 = 0x1#64 := by decide
theorem test_sltu : (after (.sltu 7 5 6) (at2 [(5, 0xffffffffffffffff#64), (6, 0x1#64)] [])).reg 7 = 0x0#64 := by decide
theorem test_xor : (after (.xor 7 5 6) (at2 [(5, 0xff00#64), (6, 0xff0#64)] [])).reg 7 = 0xf0f0#64 := by decide
theorem test_srl : (after (.srl 7 5 6) (at2 [(5, 0xffffffffffffffff#64), (6, 0x4#64)] [])).reg 7 = 0xfffffffffffffff#64 := by decide
theorem test_sra : (after (.sra 7 5 6) (at2 [(5, 0xf000000000000000#64), (6, 0x4#64)] [])).reg 7 = 0xff00000000000000#64 := by decide
theorem test_or : (after (.or 7 5 6) (at2 [(5, 0xf0#64), (6, 0xf#64)] [])).reg 7 = 0xff#64 := by decide
theorem test_and : (after (.and 7 5 6) (at2 [(5, 0xff00#64), (6, 0xff0#64)] [])).reg 7 = 0xf00#64 := by decide
theorem test_slt_swapped : (after (.slt 7 5 6) (at2 [(5, 0x1#64), (6, 0xffffffffffffffff#64)] [])).reg 7 = 0x0#64 := by decide
theorem test_sltu_swapped : (after (.sltu 7 5 6) (at2 [(5, 0x1#64), (6, 0xffffffffffffffff#64)] [])).reg 7 = 0x1#64 := by decide
theorem test_sra_amount : (after (.sra 7 5 6) (at2 [(5, 0xfffffffffffffff8#64), (6, 0x42#64)] [])).reg 7 = 0xfffffffffffffffe#64 := by decide
theorem test_addiw : (after (.addiw 6 5 1) (at2 [(5, 0x7fffffff#64)] [])).reg 6 = 0xffffffff80000000#64 := by decide
theorem test_addiw_sext : (after (.addiw 6 5 0) (at2 [(5, 0x180000000#64)] [])).reg 6 = 0xffffffff80000000#64 := by decide
theorem test_slliw : (after (.slliw 6 5 31) (at2 [(5, 0x1#64)] [])).reg 6 = 0xffffffff80000000#64 := by decide
theorem test_srliw : (after (.srliw 6 5 31) (at2 [(5, 0x80000000#64)] [])).reg 6 = 0x1#64 := by decide
theorem test_srliw_zero : (after (.srliw 6 5 0) (at2 [(5, 0x80000000#64)] [])).reg 6 = 0xffffffff80000000#64 := by decide
theorem test_sraiw : (after (.sraiw 6 5 0x404) (at2 [(5, 0x80000000#64)] [])).reg 6 = 0xfffffffff8000000#64 := by decide
theorem test_slliw_full : (after (.slliw 6 5 32) (at2 [(5, 0x3#64)] [])).reg 6 = 0x0#64 := by decide
theorem test_sraiw_mod32 : (after (.sraiw 6 5 0x428) (with2 { wshiftWide := .mod32 } [(5, 0x80000000#64)] [])).reg 6 = 0xffffffffff800000#64 := by decide
theorem test_addw : (after (.addw 7 5 6) (at2 [(5, 0xffffffff#64), (6, 0x1#64)] [])).reg 7 = 0x0#64 := by decide
theorem test_subw : (after (.subw 7 5 6) (at2 [(5, 0x80000000#64), (6, 0x1#64)] [])).reg 7 = 0x7fffffff#64 := by decide
theorem test_sllw : (after (.sllw 7 5 6) (at2 [(5, 0x3#64), (6, 0x1f#64)] [])).reg 7 = 0xffffffff80000000#64 := by decide
theorem test_sllw_full : (after (.sllw 7 5 6) (at2 [(5, 0x3#64), (6, 0x20#64)] [])).reg 7 = 0x0#64 := by decide
theorem test_sllw_mod32 : (after (.sllw 7 5 6) (with2 { wshiftWide := .mod32 } [(5, 0x3#64), (6, 0x20#64)] [])).reg 7 = 0x3#64 := by decide
theorem test_srlw : (after (.srlw 7 5 6) (at2 [(5, 0xffffffff#64), (6, 0x4#64)] [])).reg 7 = 0xfffffff#64 := by decide
theorem test_srlw_full : (after (.srlw 7 5 6) (at2 [(5, 0xffffffffffffffff#64), (6, 0x3f#64)] [])).reg 7 = 0x0#64 := by decide
theorem test_sraw : (after (.sraw 7 5 6) (at2 [(5, 0x80000000#64), (6, 0x4#64)] [])).reg 7 = 0xfffffffff8000000#64 := by decide
theorem test_sraw_full : (after (.sraw 7 5 6) (at2 [(5, 0x80000000#64), (6, 0x28#64)] [])).reg 7 = 0xffffffffffffffff#64 := by decide
theorem test_mul : (after (.mul 7 5 6) (at2 [(5, 0x7fffffffffffffff#64), (6, 0x2#64)] [])).reg 7 = 0xfffffffffffffffe#64 := by decide
theorem test_mulh : (after (.mulh 7 5 6) (at2 [(5, 0x4000000000000000#64), (6, 0x4#64)] [])).reg 7 = 0x1#64 := by decide
theorem test_mulh_min : (after (.mulh 7 5 6) (at2 [(5, 0x8000000000000000#64), (6, 0x8000000000000000#64)] [])).reg 7 = 0x4000000000000000#64 := by decide
theorem test_mulhsu : (after (.mulhsu 7 5 6) (at2 [(5, 0xffffffffffffffff#64), (6, 0xffffffffffffffff#64)] [])).reg 7 = 0xffffffffffffffff#64 := by decide
theorem test_mulhsu_swapped : (after (.mulhsu 7 5 6) (at2 [(5, 0x2#64), (6, 0xffffffffffffffff#64)] [])).reg 7 = 0x1#64 := by decide
theorem test_mulhu : (after (.mulhu 7 5 6) (at2 [(5, 0xffffffffffffffff#64), (6, 0xffffffffffffffff#64)] [])).reg 7 = 0xfffffffffffffffe#64 := by decide
theorem test_mulw : (after (.mulw 7 5 6) (at2 [(5, 0x7fffffff#64), (6, 0x2#64)] [])).reg 7 = 0xfffffffffffffffe#64 := by decide
theorem test_mulw_low : (after (.mulw 7 5 6) (at2 [(5, 0x100010000#64), (6, 0x10000#64)] [])).reg 7 = 0x0#64 := by decide
theorem test_div : (after (.div 7 5 6) (at2 [(5, 0xfffffffffffffff9#64), (6, 0x2#64)] [])).reg 7 = 0xfffffffffffffffd#64 := by decide
theorem test_div_zero : (after (.div 7 5 6) (at2 [(5, 0x5#64), (6, 0x0#64)] [])).reg 7 = 0xffffffffffffffff#64 := by decide
theorem test_divu : (after (.divu 7 5 6) (at2 [(5, 0xffffffffffffffff#64), (6, 0x2#64)] [])).reg 7 = 0x7fffffffffffffff#64 := by decide
theorem test_divu_zero : (after (.divu 7 5 6) (at2 [(5, 0x5#64), (6, 0x0#64)] [])).reg 7 = 0xffffffffffffffff#64 := by decide
theorem test_rem : (after (.rem 7 5 6) (at2 [(5, 0xfffffffffffffff9#64), (6, 0x2#64)] [])).reg 7 = 0xffffffffffffffff#64 := by decide
theorem test_rem_overflow : (after (.rem 7 5 6) (at2 [(5, 0x8000000000000000#64), (6, 0xffffffffffffffff#64)] [])).reg 7 = 0x0#64 := by decide
theorem test_remu : (after (.remu 7 5 6) (at2 [(5, 0xffffffffffffffff#64), (6, 0x2#64)] [])).reg 7 = 0x1#64 := by decide
theorem test_remu_zero : (after (.remu 7 5 6) (at2 [(5, 0x9#64), (6, 0x0#64)] [])).reg 7 = 0x9#64 := by decide
theorem test_divw : (after (.divw 7 5 6) (at2 [(5, 0xfffffffffffffff9#64), (6, 0x2#64)] [])).reg 7 = 0xfffffffffffffffd#64 := by decide
theorem test_divw_zero : (after (.divw 7 5 6) (at2 [(5, 0x5#64), (6, 0x100000000#64)] [])).reg 7 = 0xffffffffffffffff#64 := by decide
theorem test_divuw : (after (.divuw 7 5 6) (at2 [(5, 0xfffffffe#64), (6, 0x2#64)] [])).reg 7 = 0x7fffffff#64 := by decide
theorem test_divuw_negative : (after (.divuw 7 5 6) (at2 [(5, 0xffffffff#64), (6, 0x1#64)] [])).reg 7 = 0xffffffffffffffff#64 := by decide
theorem test_remw : (after (.remw 7 5 6) (at2 [(5, 0xfffffffffffffff9#64), (6, 0x2#64)] [])).reg 7 = 0xffffffffffffffff#64 := by decide
theorem test_remw_zero : (after (.remw 7 5 6) (at2 [(5, 0x123456789abcdef0#64), (6, 0x0#64)] [])).reg 7 = 0xffffffff9abcdef0#64 := by decide
theorem test_remuw : (after (.remuw 7 5 6) (at2 [(5, 0xffffffff#64), (6, 0x10#64)] [])).reg 7 = 0xf#64 := by decide
theorem test_remuw_zero : (after (.remuw 7 5 6) (at2 [(5, 0x80000000#64), (6, 0x0#64)] [])).reg 7 = 0xffffffff80000000#64 := by decide
theorem test_div_overflow : (after (.div 7 5 6) (at2 [(5, 0x8000000000000000#64), (6, 0xffffffffffffffff#64)] [])).reg 7 = 0x8000000000000000#64 := by decide

/-- DIV_OVF = FAULT (42_muldiv.md R151): the overflow stops, even for x0, and nothing is counted. -/
theorem test_div_fault : stopAfter (.div 0 5 6) (with2 { divOvf := .fault } [(5, 0x8000000000000000), (6, 0xFFFFFFFFFFFFFFFF)] [])
    = some (.arithmeticFault 0x1000) := by decide
/-- A write to x0 is discarded, and the instruction is counted (10_state.md R20, 30_encoding.md R87). -/
theorem test_x0 : (after (.addi 0 5 1) (at2 [(5, 7)] [])).reg 0 = 0 ∧ (after (.addi 0 5 1) (at2 [(5, 7)] [])).icount = 1 := by
  decide

/-! ### Loads and stores: the examples of 43_loads_stores.md -/

def data8 : List Host.Cell :=
  [(0x2000, 0x34), (0x2001, 0x92), (0x2002, 0x03), (0x2003, 0x84), (0x2004, 5), (0x2005, 6), (0x2006, 7), (0x2007, 8)]

theorem test_lb : (after (.lb 6 5 1) (at2 [(5, 0x2000#64)] data8)).reg 6 = 0xffffffffffffff92#64 := by decide
theorem test_lh : (after (.lh 6 5 0) (at2 [(5, 0x2000#64)] data8)).reg 6 = 0xffffffffffff9234#64 := by decide
theorem test_lw : (after (.lw 6 5 0) (at2 [(5, 0x2000#64)] data8)).reg 6 = 0xffffffff84039234#64 := by decide
theorem test_ld : (after (.ld 6 5 0) (at2 [(5, 0x2000#64)] data8)).reg 6 = 0x807060584039234#64 := by decide
theorem test_lbu : (after (.lbu 6 5 1) (at2 [(5, 0x2000#64)] data8)).reg 6 = 0x92#64 := by decide
theorem test_lhu : (after (.lhu 6 5 0) (at2 [(5, 0x2000#64)] data8)).reg 6 = 0x9234#64 := by decide
theorem test_lwu : (after (.lwu 6 5 0) (at2 [(5, 0x2000#64)] data8)).reg 6 = 0x84039234#64 := by decide
theorem test_lh_odd : (after (.lh 6 5 2) (at2 [(5, 0x2000#64)] data8)).reg 6 = 0xffffffffffff8403#64 := by decide
theorem test_lw_misaligned : (after (.lw 6 5 (-3)) (at2 [(5, 0x2004#64)] data8)).reg 6 = 0x5840392#64 := by decide
theorem test_ld_unwritten : (after (.ld 6 5 8) (at2 [(5, 0x2000#64)] data8)).reg 6 = 0x0#64 := by decide
/-- A load to x0 still reads and may stop (30_encoding.md R87). -/
theorem test_lb_x0_stops : stopAfter (.lb 0 5 0) (at2 [(5, 0x3000)] []) = some (.memoryFault .read 0x3000) := by decide
/-- The lowest unreadable byte is reported (20_memory.md R45). -/
theorem test_ld_crossing : stopAfter (.ld 6 5 (-4)) (at2 [(5, 0x3000)] []) = some (.memoryFault .read 0x3000) := by decide
theorem test_lhu_top : stopAfter (.lhu 6 5 0) (at2 [(5, 0xFFFFFFFFFFFFFFFF)] []) =
    some (.memoryFault .read 0xFFFFFFFFFFFFFFFF) := by decide
theorem test_sb : byteOf (after (.sb 5 6 1) (at2 [(5, 0x2000), (6, 0x1234)] [])) 0x2001 = some 0x34 ∧
    byteOf (after (.sb 5 6 1) (at2 [(5, 0x2000), (6, 0x1234)] [])) 0x2002 = some 0 := by decide
theorem test_sh : byteOf (after (.sh 5 6 0) (at2 [(5, 0x2000), (6, 0x1234)] [])) 0x2000 = some 0x34 ∧
    byteOf (after (.sh 5 6 0) (at2 [(5, 0x2000), (6, 0x1234)] [])) 0x2001 = some 0x12 := by decide
theorem test_sw : (after (.sw 5 6 0) (at2 [(5, 0x2000), (6, 0x11223344)] [])).mem.cells =
    [(0x2000, 0x44), (0x2001, 0x33), (0x2002, 0x22), (0x2003, 0x11)] := by decide
/-- Zero bytes are not listed in a zero-filled page (log 5). -/
theorem test_sd : (after (.sd 5 6 8) (at2 [(5, 0x2000), (6, 0x1000)] data8)).mem.cells = data8 ++ [(0x2009, 0x10)] := by
  decide
theorem test_sw_overwrites_with_zero : (after (.sw 5 0 4) (at2 [(5, 0x2000)] data8)).mem.cells = data8.take 4 := by decide
/-- A store that crosses into an absent page writes nothing (20_memory.md R50). -/
theorem test_sh_crossing : (after (.sh 5 6 0) (at2 [(5, 0x2FFF), (6, 0x1234)] data8)).mem.cells = data8 ∧
    stopAfter (.sh 5 6 0) (at2 [(5, 0x2FFF), (6, 0x1234)] data8) = some (.memoryFault .write 0x3000) := by decide
/-- A store to a page with W = 0 (20_memory.md R45). -/
theorem test_sb_read_only : stopAfter (.sb 5 6 0) (at2 [(5, 0x1000)] []) = some (.memoryFault .write 0x1000) := by decide

/-! ### The stack rule (40_execution_step.md R99) -/

/-- The page of the new value is created, writable and not executable. -/
theorem test_stack_page : ((after (.addi 2 2 (-16)) (at2 [] [])).mem.pages.map (·.base)) = [0x1000, 0x2000, 0x7FFFF000] ∧
    (after (.addi 2 2 (-16)) (at2 [] [])).reg 2 = 0x7FFFFFF0 ∧ (after (.addi 2 2 (-16)) (at2 [] [])).draws = 1 := by decide
/-- R183's example, after the page is there. -/
theorem test_sd_stack : byteOf (after (.sd 2 1 8) (after (.addi 2 2 (-16)) (at2 [(1, 0x1000)] []))) 0x7FFFFFF9 = some 0x10 := by
  decide
/-- The bounds: HEAP_MAX and MAXADDR are allowed, the values next to them are not, and x2 keeps its value. -/
theorem test_stack_bounds : stopAfter (.add 2 5 0) (at2 [(5, 0x1FFFFFFF)] []) = some (.stackExhausted 0x1FFFFFFF) ∧
    stopAfter (.add 2 5 0) (at2 [(5, 0x20000000)] []) = none ∧ stopAfter (.add 2 5 0) (at2 [(5, 0x80000000)] []) = none ∧
    stopAfter (.add 2 5 0) (at2 [(5, 0x80000001)] []) = some (.stackExhausted 0x80000001) := by decide
/-- At MAXADDR no page is created. -/
theorem test_stack_maxaddr : (after (.add 2 5 0) (at2 [(5, 0x80000000)] [])).mem.pages = pages2 := by decide

/-! ### Control transfers: the examples of 44_control.md -/

theorem test_jal : (after (.jal 1 0x20) (at2 [] [])).reg 1 = 0x1004 ∧ (after (.jal 1 0x20) (at2 [] [])).pc = 0x1020 := by decide
/-- JAL into x2 out of bounds: no jump (R189). -/
theorem test_jal_stack : stopAfter (.jal 2 0x20) (at2 [] []) = some (.stackExhausted 0x1004) ∧
    (after (.jal 2 0x20) (at2 [] [])).pc = 0x1000 := by decide
theorem test_jalr : (after (.jalr 1 5 1) (at2 [(5, 0x2003)] [])).reg 1 = 0x1004 ∧
    (after (.jalr 1 5 1) (at2 [(5, 0x2003)] [])).pc = 0x2004 := by decide
/-- The base is read before the link is committed (R187). -/
theorem test_jalr_same : (after (.jalr 1 1 0) (at2 [(1, 0x3001)] [])).pc = 0x3000 ∧
    (after (.jalr 1 1 0) (at2 [(1, 0x3001)] [])).reg 1 = 0x1004 := by decide
theorem test_beq : (after (.beq 5 6 (-8)) (at2 [(5, 0x3#64), (6, 0x3#64)] [])).pc = 0xff8#64 := by decide
theorem test_beq_not : (after (.beq 5 6 (-8)) (at2 [(5, 0x3#64), (6, 0x4#64)] [])).pc = 0x1004#64 := by decide
theorem test_bne : (after (.bne 5 6 16) (at2 [(5, 0x1#64), (6, 0x2#64)] [])).pc = 0x1010#64 := by decide
theorem test_bne_not : (after (.bne 5 6 16) (at2 [(5, 0x2#64), (6, 0x2#64)] [])).pc = 0x1004#64 := by decide
theorem test_blt : (after (.blt 5 6 8) (at2 [(5, 0xffffffffffffffff#64), (6, 0x0#64)] [])).pc = 0x1008#64 := by decide
theorem test_blt_equal : (after (.blt 5 6 8) (at2 [(5, 0x5#64), (6, 0x5#64)] [])).pc = 0x1004#64 := by decide
theorem test_bge : (after (.bge 5 6 8) (at2 [(5, 0xffffffffffffffff#64), (6, 0x0#64)] [])).pc = 0x1004#64 := by decide
theorem test_bge_equal : (after (.bge 5 6 8) (at2 [(5, 0x5#64), (6, 0x5#64)] [])).pc = 0x1008#64 := by decide
theorem test_bltu : (after (.bltu 5 6 8) (at2 [(5, 0xffffffffffffffff#64), (6, 0x0#64)] [])).pc = 0x1004#64 := by decide
theorem test_bltu_taken : (after (.bltu 5 6 8) (at2 [(5, 0x0#64), (6, 0xffffffffffffffff#64)] [])).pc = 0x1008#64 := by decide
theorem test_bgeu : (after (.bgeu 5 6 8) (at2 [(5, 0xffffffffffffffff#64), (6, 0x0#64)] [])).pc = 0x1008#64 := by decide
theorem test_bgeu_not : (after (.bgeu 5 6 8) (at2 [(5, 0x0#64), (6, 0xffffffffffffffff#64)] [])).pc = 0x1004#64 := by decide

/-! ### The service port: the examples of 45_system.md -/

def call (n arg : Word) (cells : List Host.Cell) : State := at2 [(17, n), (10, arg)] cells

/-- The bytes of a text. -/
def bytesOf (t : String) : List Byte := t.toList.map fun c => BitVec.ofNat 8 c.toNat

theorem test_print_int : (after .ecall (call 1 0xFFFFFFFFFFFFFFFB [])).output = bytesOf "-5" ∧
    (after .ecall (call 1 0xFFFFFFFFFFFFFFFB [])).reg 10 = 0 := by decide
theorem test_print_int_ends : (after .ecall (call 1 0x8000000000000000 [])).output = bytesOf "-9223372036854775808" ∧
    (after .ecall (call 1 0 [])).output = bytesOf "0" := by decide
theorem test_print_char : (after .ecall (call 11 0x141 [])).output = bytesOf "A" := by decide
theorem test_print_string : (after .ecall (call 4 0x2001 [(0x2000, 65), (0x2001, 72), (0x2002, 105)])).output =
    bytesOf "Hi" := by decide
/-- What was printed before the stop is kept (R205). -/
theorem test_print_string_stops : (after .ecall (call 4 0x2FFE [(0x2FFE, 72), (0x2FFF, 105)])).output = bytesOf "Hi" ∧
    stopAfter .ecall (call 4 0x2FFE [(0x2FFE, 72), (0x2FFF, 105)]) = some (.memoryFault .read 0x3000) := by decide
/-- The same call with x2 as the result register. -/
def calls2 (n arg : Word) (cells : List Host.Cell) : State := with2 { sysResReg := 2 } [(17, n), (10, arg)] cells

/-- A result that breaks the stack rule stops the ECALL, which keeps PRINT_STRING's output and no other (60_exceptions.md
R232). -/
theorem test_result_stops : stopAfter .ecall (calls2 1 5 []) = some (.stackExhausted 0) ∧
    (after .ecall (calls2 1 5 [])).output = [] ∧
    (after .ecall (calls2 4 0x2001 [(0x2001, 72), (0x2002, 105)])).output = bytesOf "Hi" := by decide
theorem test_read_int_holds : after .ecall (call 5 0 []) = { call 5 0 [] with hold := true } := by decide
theorem test_read_int : (after .ecall ((after .ecall (call 5 0 [])).supplyInput [2])).reg 10 = 2 ∧
    (after .ecall ((after .ecall (call 5 0 [])).supplyInput [2])).hold = false := by decide
theorem test_read_char : (after .ecall ((call 12 0 []).supplyInput [0x178, 9])).reg 10 = 0x78 ∧
    (after .ecall ((call 12 0 []).supplyInput [0x178, 9])).input = [9] := by decide
/-- SBRK returns the old break and creates the pages it enters (R208). -/
theorem test_sbrk : (after .ecall (call 9 0x1001 [])).reg 10 = 0x10000000 ∧ (after .ecall (call 9 0x1001 [])).heap = 0x10001001 ∧
    ((after .ecall (call 9 0x1001 [])).mem.pages.map (·.base)) = [0x1000, 0x2000, 0x10000000, 0x10001000] := by decide
theorem test_sbrk_bounds : stopAfter .ecall (call 9 0x10000001 []) = some (.heapExhausted 0x20000001) ∧
    stopAfter .ecall (call 9 0xFFFFFFFFFFFFFFFF []) = some (.heapExhausted 0x0FFFFFFF) ∧
    (after .ecall (call 9 0 [])).mem.pages = pages2 := by decide
theorem test_heap_queries : (after .ecall (call 13 0 [])).reg 10 = 0x10000000 ∧ (after .ecall (call 14 0 [])).reg 10 = 0x20000000 := by
  decide
theorem test_exit : (after .ecall (call 10 7 [])).exitStatus = 7 ∧ (after .ecall (call 10 7 [])).finished = true ∧
    (after .ecall (call 10 7 [])).icount = 1 ∧ (after .ecall (call 10 7 [])).reg 10 = 0 := by decide
theorem test_unknown_service : stopAfter .ecall (call 0x100000001 0 []) = some (.unknownService 0x100000001) := by decide
theorem test_ebreak : stopAfter .ebreak (at2 [] []) = some (.breakpoint 0x1000) ∧ (after .ebreak (at2 [] [])).icount = 0 := by decide

/-! ### Steps -/

/-- The word ADDI x6, x5, -1 as the first instruction after reset. -/
theorem test_first_instruction : (stepped (State.reset.withFetchWord 32 0xFFF28313)).reg 6 = 0xFFFFFFFFFFFFFFFF ∧
    (stepped (State.reset.withFetchWord 32 0xFFF28313)).pc = 0x1004 := by decide
/-- With no image the first fetch stops (70_reset_and_hazards.md R253). -/
theorem test_reset_without_image : (stepped State.reset).stop = some { reason := .memoryFault .fetch 0x1000, instPc := 0x1000 } := by
  decide
/-- UNIMPLEMENTED, the all-zero word: a counted no-op (45_system.md R214). -/
theorem test_unimplemented : stepped (at2 [] []) = { at2 [] [] with pc := 0x1004, icount := 1 } := by decide
/-- A misaligned pc is reported before the page is looked at (60_exceptions.md R231). -/
theorem test_fetch_misaligned : (stepped { at2 [] [] with pc := 0x9002 }).stop.map (·.reason) = some (.fetchMisaligned 0x9002) ∧
    (stepped { at2 [] [] with pc := 0x2000 }).stop.map (·.reason) = some (.memoryFault .fetch 0x2000) := by decide
/-- A breakpoint pauses once (60_exceptions.md R245). -/
theorem test_breakpoint :
    (stepped { at2 [] [] with breakpoints := [{ addr := 0x1000, enabled := true }] }).icount = 0 ∧
    (stepped (stepped { at2 [] [] with breakpoints := [{ addr := 0x1000, enabled := true }] })).icount = 1 := by decide

/-- A pipelined launch with the code of these words at 0x1000. -/
def piped (c : Config) (ws : List Nat) : State :=
  (ws.foldl (fun sa w => ({ sa.1 with mem := writeLE c sa.1.mem sa.2 4 (BitVec.ofNat 64 w) }, sa.2 + 4))
    (State.initial { c with mode := .pipelined } { pages := pages2, cells := [] } [] (Vector.replicate 32 0), 0x1000)).1

/-- `n` steps. -/
def steps : Nat → State → State
  | 0, s => s
  | n + 1, s => steps n (stepped s)

/-- ADDI x5, x0, 1; ADDI x6, x5, 2 (forwarded from E): the second has committed after six cycles (95_test_vectors.md §5). -/
theorem test_forwarding : (steps 5 (piped {} [0x00100293, 0x00228313])).reg 5 = 1 ∧
    (steps 6 (piped {} [0x00100293, 0x00228313])).reg 6 = 3 := by decide
/-- E holds the whole record of an UNIMPLEMENTED word (30_encoding.md R82, 70_reset_and_hazards.md R256). -/
theorem test_latched_record : (steps 2 (piped {} [0xFFF28FFF])).el.d.raw = 0xFFF28FFF ∧
    (steps 2 (piped {} [0xFFF28FFF])).el.d.sub = .unimplemented ∧ (steps 2 (piped {} [0xFFF28FFF])).el.d.rd = 31 ∧
    (steps 2 (piped {} [0xFFF28FFF])).el.d.rs1 = 5 := by decide
/-- LD x5, 0(x7) with x7 = 0; the load reads an absent page and stops in M, at cycle 4, with its own address. -/
theorem test_pipelined_load_stop : (steps 4 (piped {} [0x0003B283])).stop =
    some { reason := .memoryFault .read 0, instPc := 0x1000 } ∧ (steps 4 (piped {} [0x0003B283])).cycles = 4 := by decide

/-! ### Witnesses: for every statement with hypotheses, states and operands that meet them, at the ends of the ranges -/

/-- A step that answers a next state answers `stepped`. -/
theorem step_eq_stepped (s : State) (h : (match step s with | .next _ => true | _ => false) = true) :
    step s = .next (stepped s) := by
  unfold stepped
  cases e : step s with
  | next t => rfl
  | fault f => simp [e] at h
  | refused r => simp [e] at h

/-- The code words at 0x1000 in atomic mode. -/
def coded (w : Nat) (rs : List (Reg × Word)) : State := (at2 rs []).withFetchWord 32 w

theorem witness_DecodeOfEncode : (Instr.srai 0 31 0x7FF).WellFormed = true ∧ Instr.ecall.WellFormed = true := by decide
theorem witness_EncodeOfDecode : decode 0xFFFFF06F#32 = .instr (.jal 0 (-2)) := by decide
theorem witness_DecodeFollowsTable : decode 0x00000073#32 = .instr .ecall ∧ decode 0xFFFFFFFF#32 = .unimplemented ∧
    Instr.ecall.row ∈ tableRows ∧ Instr.ecall.row.holds 0x00000073#32 = true := by decide
theorem witness_ImmediateBits : (0 : Nat) < 64 ∧ (63 : Nat) < 64 := by decide
theorem witness_NoOtherEncodings : (0xFFFFFFFE#32).extractLsb' 0 2 ≠ 0b11#2 ∧ (0x0000000F#32).extractLsb' 0 7 = 0b0001111#7 ∧
    (0x00B5252F#32).extractLsb' 0 7 = 0b0101111#7 ∧ (0x00200073#32).extractLsb' 0 7 = 0b1110011#7 ∧
    0x00200073#32 ≠ 0x00000073#32 ∧ 0x00200073#32 ≠ 0x00100073#32 ∧
    ((0x00007003#32).extractLsb' 0 7 = 0b0000011#7 ∧ (0x00007003#32).extractLsb' 12 3 = 0b111#3) ∧
    ((0x00002063#32).extractLsb' 0 7 = 0b1100011#7 ∧ (0x00002063#32).extractLsb' 12 3 = 0b010#3) ∧
    ((0x00004023#32).extractLsb' 0 7 = 0b0100011#7 ∧ 4 ≤ ((0x00004023#32).extractLsb' 12 3).toNat) ∧
    ((0x04000033#32).extractLsb' 0 7 = 0b0110011#7 ∧
      (0x04000033#32).extractLsb' 25 7 ∉ [0b0000000#7, 0b0100000#7, 0b0000001#7]) ∧
    ((0x4000103B#32).extractLsb' 0 7 = 0b0111011#7 ∧ (0x4000103B#32).extractLsb' 25 7 = 0b0100000#7 ∧
      (0x4000103B#32).extractLsb' 12 3 ≠ 0b000#3 ∧ (0x4000103B#32).extractLsb' 12 3 ≠ 0b101#3) ∧
    (∀ r ∈ tableRows, r.holds 0xFFFFFFFF#32 = false) := by decide

theorem witness_StepRunsDecoded : (coded 0xFFF28313 []).fetches 0xFFF28313#32 ∧
    decode 0xFFF28313#32 = .instr (.addi 6 5 (-1)) := ⟨⟨rfl, by decide, rfl⟩, by decide⟩
theorem witness_UnimplementedIsCountedNop : (at2 [] []).fetches 0#32 ∧ ∀ r ∈ tableRows, r.holds 0#32 = false :=
  ⟨⟨rfl, by decide, rfl⟩, by decide⟩

/-- A misaligned pc; an absent page at byte 0; and byte 3 at an odd MAXADDR. -/
theorem witness_FetchRule :
    (let s : State := { at2 [] [] with pc := 0x1001 }
     s.cfg.mode = .atomic ∧ s.runs = true ∧ s.pc.toNat % 4 ≠ 0) ∧
    (let s : State := { at2 [] [] with pc := 0x80000000 }
     s.cfg.mode = .atomic ∧ s.runs = true ∧ s.pc.toNat % 4 = 0 ∧ fetchableByte s.cfg s.mem (s.pc.toNat + 0) = false) ∧
    (let s : State := with2 { maxAddr := 0x1003 } [] []
     s.cfg.mode = .atomic ∧ s.runs = true ∧ s.pc.toNat % 4 = 0 ∧ fetchableByte s.cfg s.mem (s.pc.toNat + 3) = false ∧
     ∀ j, j < 3 → fetchableByte s.cfg s.mem (s.pc.toNat + j) = true) := by decide
theorem witness_NothingAfterEndOrInHold : (after .ecall (call 10 7 [])).finished = true ∧
    (after .ebreak (at2 [] [])).stop.isSome = true ∧ (after .ecall (call 5 0 [])).hold = true := by decide
/-- An entry at the pc, one at the address in W, a disabled one and one elsewhere, and a resumed run. -/
theorem witness_CheckPointPausesOnce :
    (let s : State := { at2 [] [] with breakpoints := [{ addr := 0x2000, enabled := true }, { addr := 0x1000, enabled := true }] }
     s.ended = false ∧ s.hold = false ∧ s.resuming = false ∧ s.cfg.mode = .atomic ∧
     ∃ b ∈ s.breakpoints, b.enabled = true ∧ b.addr = s.pc) ∧
    (let s : State := { steps 4 (piped {} [0x00100293]) with breakpoints := [{ addr := 0x1000, enabled := true }] }
     s.ended = false ∧ s.hold = false ∧ s.resuming = false ∧ s.cfg.mode = .pipelined ∧ s.wl.valid = true ∧
     ∃ b ∈ s.breakpoints, b.enabled = true ∧ b.addr = s.wl.pc) ∧
    (let s : State := { at2 [] [] with breakpoints := [{ addr := 0x1000, enabled := false }, { addr := 0x1004, enabled := true }] }
     s.ended = false ∧ s.hold = false ∧ ¬(∃ b ∈ s.breakpoints, b.enabled = true ∧ b.addr = s.pc) ∧ s.cfg.mode ≠ .pipelined) ∧
    (let s : State := { at2 [] [] with breakpoints := [{ addr := 0x1000, enabled := true }], resuming := true }
     s.ended = false ∧ s.hold = false ∧ s.resuming = true) := by decide
theorem witness_RunBudget : (run 3 (some 2) (at2 [] [])).1 = .budget ∧ (run 3 (some 0) (at2 [] [])).1 = .budget ∧
    (run 3 (some 9) (coded 0x00100073 [])).1 = .stopped ∧ (run 3 (some 9) { coded 0x73 [(17, 10)] with hold := false }).1 = .finished ∧
    (run 3 (some 9) (coded 0x73 [(17, 5)])).1 = .held ∧
    (run 3 (some 9) { at2 [] [] with breakpoints := [{ addr := 0x1004, enabled := true }] }).1 = .paused ∧
    (after .ebreak (at2 [] [])).ended = true ∧ (run 3 none (at2 [] [])).1 = .fuelOut ∧
    (run 3 none (coded 0x73 [(17, 10)])).1 = .finished := by decide

/-- The commit premises of every result statement: any register but x2, x2 at both bounds, and x2 just outside them. -/
theorem witness_commitAllowed : commitAllowed (at2 [] []) 31 0 = true ∧ commitAllowed (at2 [] []) 0 1 = true ∧
    commitAllowed (at2 [] []) 2 0x20000000 = true ∧ commitAllowed (at2 [] []) 2 0x80000000 = true ∧
    commitAllowed (at2 [] []) 2 0x1FFFFFFF = false ∧ commitAllowed (at2 [] []) 2 0x80000001 = false := by decide
theorem witness_SumAndLogicResults :
    (let s := at2 [(5, 0x1FFFFFFF), (6, 1)] []
     commitAllowed s 2 (s.reg 5 + s.reg 6) = true ∧ commitAllowed s 2 (s.reg 5 - s.reg 6) = false ∧
     commitAllowed s 2 (((0x20000#20 ++ 0#12 : BitVec 32)).signExtend 64) = true ∧
     commitAllowed s 2 (((0x80000#20 ++ 0#12 : BitVec 32)).signExtend 64) = false) := by decide
theorem witness_ComparisonResults : commitAllowed (at2 [] []) 5 1 = true ∧ commitAllowed (at2 [] []) 2 1 = false := by decide
theorem witness_ShiftResults :
    (let s := at2 [(5, 1), (6, 93), (7, 30)] []
     commitAllowed s 2 (s.reg 5 <<< ((s.reg 6).toNat % 64)) = true ∧ commitAllowed s 2 (s.reg 5 <<< ((s.reg 7).toNat % 64)) = true ∧
     commitAllowed s 2 (s.reg 5 >>> ((s.reg 7).toNat % 64)) = false) := by decide
theorem witness_WordSumResults : commitAllowed (at2 [] []) 2 0x7FFFFFFF = true ∧
    commitAllowed (at2 [] []) 2 0xFFFFFFFF80000000 = false := by decide
/-- FULL and MOD32, with amounts 31, 32 and 63. -/
theorem witness_WordShiftResults :
    (let s := at2 [] []
     ¬(s.cfg.wshiftWide = .full ∧ 32 ≤ 31 % 64) ∧ (s.cfg.wshiftWide = .full ∧ 32 ≤ 32 % 64) ∧
     (s.cfg.wshiftWide = .full ∧ 32 ≤ 63 % 64) ∧ commitAllowed s 2 0 = false ∧ commitAllowed s 3 0 = true) ∧
    (let s := with2 { wshiftWide := .mod32 } [] []
     ¬(s.cfg.wshiftWide = .full ∧ 32 ≤ 63 % 64)) := by decide
theorem witness_MultiplyResults :
    (let s := at2 [(5, 0x10000), (6, 0x4000), (7, 0x1000)] []
     commitAllowed s 2 (s.reg 5 * s.reg 6) = true ∧ commitAllowed s 2 (s.reg 5 * s.reg 7) = false) := by decide
/-- RISCV with the overflow, and FAULT with the values next to it. -/
theorem witness_DivideResults :
    divStops (at2 [] []) 0x8000000000000000 0xFFFFFFFFFFFFFFFF = false ∧
    divStops (with2 { divOvf := .fault } [] []) 0x8000000000000001 0xFFFFFFFFFFFFFFFF = false ∧
    divStops (with2 { divOvf := .fault } [] []) 0x8000000000000000 0 = false ∧
    commitAllowed (at2 [] []) 2 0xFFFFFFFFFFFFFFFF = false := by decide
theorem witness_WordDivideResults :
    divStopsWord (at2 [] []) 0x80000000 0xFFFFFFFF = false ∧
    divStopsWord (with2 { divOvf := .fault } [] []) 0x80000000 0xFFFFFFFE = false ∧ commitAllowed (at2 [] []) 7 0 = true := by decide
theorem witness_SignedDivisionOverflow :
    (let s := with2 { divOvf := .fault } [(5, 0x8000000000000000), (6, 0xFFFFFFFFFFFFFFFF)] []
     s.cfg.divOvf = .fault ∧ s.reg 5 = 0x8000000000000000 ∧ s.reg 6 = 0xFFFFFFFFFFFFFFFF) ∧
    (let s := at2 [(5, 0x180000000), (6, 0x0FFFFFFFF)] []
     s.cfg.divOvf = .riscv ∧ (s.reg 5).setWidth 32 = 0x80000000#32 ∧ (s.reg 6).setWidth 32 = 0xFFFFFFFF#32) ∧
    (7 : Reg) ≠ 2#5 ∧ (0 : Reg) ≠ 2#5 ∧
    (let s := with2 { divOvf := .fault } [(5, 0x8000000000000000), (6, 0)] []
     ¬(s.cfg.divOvf = .fault ∧ (s.reg 5 = 0x8000000000000000 ∧ s.reg 6 = 0xFFFFFFFFFFFFFFFF)) ∧
     ¬(s.cfg.divOvf = .fault ∧ ((s.reg 5).setWidth 32 = 0x80000000#32 ∧ (s.reg 6).setWidth 32 = 0xFFFFFFFF#32))) := by decide
/-- FAULT with the word overflow alone, where DIV may not stop, and with the 64-bit one alone, where DIVW may not. -/
theorem witness_SignedDivisionOverflow_apart :
    (let s := with2 { divOvf := .fault } [(5, 0x80000000), (6, 0xFFFFFFFF)] []
     ¬(s.reg 5 = 0x8000000000000000 ∧ s.reg 6 = 0xFFFFFFFFFFFFFFFF) ∧ stopAfter (.div 7 5 6) s = none ∧
     stopAfter (.divw 7 5 6) s = some (.arithmeticFault 0x1000)) ∧
    (let s := with2 { divOvf := .fault } [(5, 0x8000000000000000), (6, 0xFFFFFFFFFFFFFFFF)] []
     ¬((s.reg 5).setWidth 32 = 0x80000000#32 ∧ (s.reg 6).setWidth 32 = 0xFFFFFFFF#32) ∧ stopAfter (.divw 7 5 6) s = none) := by
  decide

/-- x2 at MAXADDR, whose page is not below it; at a present page; and at an absent one, under ZERO. -/
theorem witness_CommitRule_pages :
    (let s := with2 { newPageFill := .zero } [] []
     s.cfg.maxAddr.toNat ≤ pageBase s.cfg (0x80000000#64).toNat ∧ commitAllowed s 2 0x80000000 = true ∧
     walk s.cfg s.mem (0x7FFFFFF0#64).toNat = none ∧ pageBase s.cfg (0x7FFFFFF0#64).toNat < s.cfg.maxAddr.toNat ∧
     s.cfg.newPageFill = .zero ∧ s.mem.wf s.cfg = true) ∧
    (let s := with2 { heapBase := 0, heapMax := 0 } [] []
     (walk s.cfg s.mem (0x2FF0#64).toNat).isSome = true ∧ commitAllowed s 2 0x2FF0 = true) := by decide
/-- x0, x2 below and above its bounds, and x2 at them. -/
theorem witness_CommitRule :
    (let s := at2 [] []
     (0x1FFFFFFF#64).toNat < s.cfg.heapMax.toNat ∧ s.cfg.maxAddr.toNat < (0x80000001#64).toNat ∧
     commitAllowed s 2 0x20000000 = true ∧ commitAllowed s 2 0x80000000 = true ∧ commitAllowed s 0 5 = true) := by decide
/-- A base at MAXADDR, a present page, and an absent one just below MAXADDR. -/
theorem witness_AllocRule :
    (let s := at2 [] []
     s.cfg.maxAddr.toNat ≤ 0x80000000 ∧ (findPage s.mem.pages 0x2000).isSome = true ∧ 0x7FFFF000 < s.cfg.maxAddr.toNat ∧
     findPage s.mem.pages 0x7FFFF000 = none) := by decide

/-- The last bytes of a page, for each width. -/
theorem witness_LoadDataPath : readable (at2 [] []) 0x2FFF 1 = true ∧ readable (at2 [] []) 0x2FFE 2 = true ∧
    readable (at2 [] []) 0x2FFC 4 = true ∧ readable (at2 [] []) 0x1FFC 8 = true ∧
    (let s := at2 [(5, 0x2FFF)] []; (s.reg 5 + (0#12).signExtend 64).toNat = 0x2FFF) := by decide
/-- The first, the second, the fourth and the eighth byte unreadable. -/
theorem witness_LoadDataPath_faults :
    (let s := at2 [] []
     readable s 0x3000 0 = true ∧ readableByte s (0x3000 + 0) = false ∧ readable s 0x2FFF 1 = true ∧
     readableByte s (0x2FFF + 1) = false ∧ readable s 0x2FFD 3 = true ∧ readableByte s (0x2FFD + 3) = false ∧
     readable s 0x2FF9 7 = true ∧ readableByte s (0x2FF9 + 7) = false) := by decide
theorem witness_StoreDataPath : writable (at2 [] []) 0x2FFF 1 = true ∧ writable (at2 [] []) 0x2FFE 2 = true ∧
    writable (at2 [] []) 0x2FFC 4 = true ∧ writable (at2 [] []) 0x2000 8 = true := by decide
/-- A read-only page at byte 0, an absent one at bytes 1, 3 and 7. -/
theorem witness_StoreDataPath_faults :
    (let s := at2 [] []
     writable s 0x1FFF 0 = true ∧ writableByte s (0x1FFF + 0) = false ∧ writable s 0x2FFF 1 = true ∧
     writableByte s (0x2FFF + 1) = false ∧ writable s 0x2FFD 3 = true ∧ writableByte s (0x2FFD + 3) = false ∧
     writable s 0x2FF9 7 = true ∧ writableByte s (0x2FF9 + 7) = false) := by decide
theorem witness_ReadAfterWrite :
    memWrite Config.default (at2 [] []).mem 0x2FF8 8 0x0102030405060708 =
      .ok (writeLE Config.default (at2 [] []).mem 0x2FF8 8 0x0102030405060708) ∧
    (0x2FF7#64).toNat + 1 ≤ (0x2FF8#64).toNat ∧ (0x2FF8#64).toNat + 8 ≤ (0x3000#64).toNat := by
  refine ⟨?_, by decide, by decide⟩
  rfl

theorem witness_JumpResults : commitAllowed (at2 [] []) 1 0x1004 = true ∧ commitAllowed (at2 [] []) 2 0x1004 = false ∧
    (let s : State := { at2 [] [] with pc := 0x20000000 }; commitAllowed s 2 (s.pc + 4) = true) := by decide
/-- JALR x0, 2(x5) with x5 = 0; JAL x1, 2; and BEQ x0, x0, 6, each at 0x1000. -/
theorem witness_MisalignedTargetStopsNextFetch :
    (coded 0x00228067 []).fetches 0x00228067#32 ∧ decode 0x00228067#32 = .instr (.jalr 0 5 2) ∧
    (let s := coded 0x00228067 []
     ((s.reg 5 + (2#12).signExtend 64) &&& 0xFFFFFFFFFFFFFFFE).toNat % 4 ≠ 0 ∧ commitAllowed s 0 (s.pc + 4) = true) ∧
    (coded 0x002000EF []).fetches 0x002000EF#32 ∧ decode 0x002000EF#32 = .instr (.jal 1 2) ∧
    (let s := coded 0x002000EF []
     (s.pc + (2#21).signExtend 64).toNat % 4 ≠ 0 ∧ commitAllowed s 1 (s.pc + 4) = true) ∧
    (coded 0x00000363 []).fetches 0x00000363#32 ∧ decode 0x00000363#32 = .instr (.beq 0 0 6) ∧
    (let s := coded 0x00000363 []
     (Instr.beq 0 0 6, true) ∈ branchConditions 0 0 6 (s.reg 0) (s.reg 0) ∧ (s.pc + (6#13).signExtend 64).toNat % 4 ≠ 0) :=
  ⟨⟨rfl, by decide, rfl⟩, by decide, by decide, ⟨rfl, by decide, rfl⟩, by decide, by decide, ⟨rfl, by decide, rfl⟩,
    by decide, by decide⟩
/-- The state after the jump, with no breakpoint at the target. -/
theorem witness_MisalignedTargetStopsNextFetch_next : (stepped (coded 0x002000EF [])).atCheckPoint = false ∧
    (stepped (coded 0x002000EF [])).pc = 0x1002 ∧
    (stepped (stepped (coded 0x002000EF []))).stop = some { reason := .fetchMisaligned 0x1002, instPc := 0x1002 } := by decide

theorem witness_EcallPrints : (call 1 0 []).asksFor (call 1 0 []).cfg.sysno.printInt ∧
    (call 11 0 []).asksFor (call 11 0 []).cfg.sysno.printChar ∧ commitAllowed (call 1 0 []) (call 1 0 []).cfg.sysResReg 0 = true :=
  ⟨⟨by decide, by decide⟩, ⟨by decide, by decide⟩, by decide⟩
/-- A text of two bytes at the end of the page, ended and not ended; and the empty text. -/
theorem witness_EcallPrintString :
    (call 4 0x2FFD [(0x2FFD, 72), (0x2FFE, 105)]).asksFor (call 4 0x2FFD []).cfg.sysno.printString ∧
    (let s := call 4 0x2FFD [(0x2FFD, 72), (0x2FFE, 105)]
     readable s 0x2FFD 2 = true ∧ (∀ k, k < 2 → loadedByte s (0x2FFD + k) ≠ 0) ∧ readableByte s (0x2FFD + 2) = true ∧
     loadedByte s (0x2FFD + 2) = 0 ∧ commitAllowed s s.cfg.sysResReg 0 = true) ∧
    (let s := call 4 0x2FFE [(0x2FFE, 72), (0x2FFF, 105)]
     readable s 0x2FFE 2 = true ∧ (∀ k, k < 2 → loadedByte s (0x2FFE + k) ≠ 0) ∧ readableByte s (0x2FFE + 2) = false) ∧
    (let s := call 4 0x2000 []
     readable s 0x2000 0 = true ∧ readableByte s (0x2000 + 0) = true ∧ loadedByte s (0x2000 + 0) = 0) :=
  ⟨⟨by decide, by decide⟩, by decide, by decide, by decide⟩
theorem witness_EcallReads : (call 5 0 []).asksFor (call 5 0 []).cfg.sysno.readInt ∧
    (call 12 0 []).asksFor (call 12 0 []).cfg.sysno.readChar ∧ (call 5 0 []).input = [] ∧
    ((call 5 0 []).supplyInput [7, 8]).input = [7, 8] ∧
    ((call 5 0 []).supplyInput [7, 8]).asksFor (call 5 0 []).cfg.sysno.readInt :=
  ⟨⟨by decide, by decide⟩, ⟨by decide, by decide⟩, by decide, by decide, ⟨by decide, by decide⟩⟩
theorem witness_HeldEcallIsPerformedAgain : (call 5 0 []).hold = false ∧ (call 5 0 []).input = [] ∧
    (call 5 0 []).asksFor (call 5 0 []).cfg.sysno.readInt ∧
    exec .ecall (call 5 0 []) = .next { call 5 0 [] with hold := true } :=
  ⟨by decide, by decide, ⟨by decide, by decide⟩, rfl⟩
/-- New breaks at both ends of the range, and the values next to them. -/
theorem witness_EcallSbrk : (call 9 0x10000000 []).asksFor (call 9 0 []).cfg.sysno.sbrk ∧
    (let s := call 9 0x10000000 []
     commitAllowed s s.cfg.sysResReg s.heap = true ∧
     (s.cfg.heapBase.toNat : Int) ≤ (s.heap.toNat : Int) + (s.reg s.cfg.sysArgReg).toInt ∧
     (s.heap.toNat : Int) + (s.reg s.cfg.sysArgReg).toInt ≤ (s.cfg.heapMax.toNat : Int)) ∧
    (let s := call 9 0 []
     (s.cfg.heapBase.toNat : Int) ≤ (s.heap.toNat : Int) + (s.reg s.cfg.sysArgReg).toInt) :=
  ⟨⟨by decide, by decide⟩, by decide, by decide⟩
theorem witness_EcallSbrk_stops : (call 9 0x10000001 []).asksFor (call 9 0 []).cfg.sysno.sbrk ∧
    (let s := call 9 0x10000001 []
     (s.cfg.heapMax.toNat : Int) < (s.heap.toNat : Int) + (s.reg s.cfg.sysArgReg).toInt) ∧
    (let s := call 9 0xFFFFFFFFFFFFFFFF []
     (s.heap.toNat : Int) + (s.reg s.cfg.sysArgReg).toInt < (s.cfg.heapBase.toNat : Int)) :=
  ⟨⟨by decide, by decide⟩, by decide, by decide⟩
/-- x2 as the result register and an old break below HEAP_MAX. -/
theorem witness_EcallSbrk_result : (calls2 9 0 []).asksFor (calls2 9 0 []).cfg.sysno.sbrk ∧
    (let s := calls2 9 0 []
     (s.cfg.heapBase.toNat : Int) ≤ (s.heap.toNat : Int) + (s.reg s.cfg.sysArgReg).toInt ∧
     (s.heap.toNat : Int) + (s.reg s.cfg.sysArgReg).toInt ≤ (s.cfg.heapMax.toNat : Int) ∧
     commitAllowed s s.cfg.sysResReg s.heap = false) := ⟨⟨by decide, by decide⟩, by decide⟩
theorem witness_EcallResultStops : (calls2 1 5 []).asksFor (calls2 1 5 []).cfg.sysno.printInt ∧
    (calls2 11 65 []).asksFor (calls2 11 65 []).cfg.sysno.printChar ∧
    (calls2 5 0 []).asksFor (calls2 5 0 []).cfg.sysno.readInt ∧ (calls2 12 0 []).asksFor (calls2 12 0 []).cfg.sysno.readChar ∧
    (calls2 4 0x2FFD []).asksFor (calls2 4 0x2FFD []).cfg.sysno.printString ∧
    (let s := calls2 4 0x2FFD [(0x2FFD, 72), (0x2FFE, 105)]
     readable s 0x2FFD (2 + 1) = true ∧ (∀ k, k < 2 → loadedByte s (0x2FFD + k) ≠ 0) ∧ loadedByte s (0x2FFD + 2) = 0 ∧
     commitAllowed s s.cfg.sysResReg 0 = false) ∧
    (let s := (calls2 5 0 []).supplyInput [0x1FFFFFFF]
     s.input = [0x1FFFFFFF] ∧ commitAllowed s s.cfg.sysResReg 0x1FFFFFFF = false ∧ commitAllowed s s.cfg.sysResReg 0xFF = false) :=
  ⟨⟨by decide, by decide⟩, ⟨by decide, by decide⟩, ⟨by decide, by decide⟩, ⟨by decide, by decide⟩, ⟨by decide, by decide⟩,
    by decide, by decide⟩
theorem witness_EcallQueriesAndExit : (call 13 0 []).asksFor (call 13 0 []).cfg.sysno.heapBaseQ ∧
    (call 14 0 []).asksFor (call 14 0 []).cfg.sysno.heapMaxQ ∧ (call 10 0 []).asksFor (call 10 0 []).cfg.sysno.exit ∧
    commitAllowed (call 10 0 []) (call 10 0 []).cfg.sysResReg 0 = true ∧
    (let s := with2 { sysResReg := 2 } [(17, 10)] []
     commitAllowed s s.cfg.sysResReg 0 = false ∧ commitAllowed s s.cfg.sysResReg s.cfg.heapMax = true ∧
     commitAllowed s s.cfg.sysResReg s.cfg.heapBase = false) :=
  ⟨⟨by decide, by decide⟩, ⟨by decide, by decide⟩, ⟨by decide, by decide⟩, by decide, by decide⟩
/-- A number no service has, and one that has a service's low 32 bits. -/
theorem witness_EcallUnknownService :
    (let s := call 0x100000001 0 []
     let q := s.cfg.sysno
     s.reg s.cfg.sysNumReg ∉
       [q.printInt, q.printChar, q.printString, q.readInt, q.readChar, q.sbrk, q.heapBaseQ, q.heapMaxQ, q.exit]) := by decide

theorem witness_LaunchState : configOk Config.default = true ∧ Memory.wf Config.default { pages := pages2, cells := data8 } = true ∧
    configOk { heapBase := 0, heapMax := 0, stackTop := 0, maxAddr := 0, entry := 0 } = true := by decide
theorem witness_RelaunchAndRejection :
    (let c : Config := { heapBase := 0x20000001 }; c.heapMax < c.heapBase) ∧
    (let c : Config := { stackTop := 0x1FFFFFFF }; c.stackTop < c.heapMax) ∧
    (let c : Config := { maxAddr := 0x7FFFFFFF }; c.maxAddr < c.stackTop) ∧
    (let c : Config := { entry := 0x1002 }; c.entry.toNat % 4 ≠ 0) ∧
    (at2 [] []).cfg = (call 1 0 []).cfg ∧ (at2 [] []).breakpoints = (call 1 0 []).breakpoints := by decide
theorem witness_InvariantsAtLaunch : launch Config.default { pages := pages2, cells := data8 } [] (Vector.replicate 32 0) =
    .next (State.initial Config.default { pages := pages2, cells := data8 } [] (Vector.replicate 32 0)) := by
  unfold launch
  rw [if_pos (by decide)]
/-- Two image pages with draws of their own. -/
theorem witness_InvariantsAtLaunch_draws :
    (drawNumbers (pages2.map fun p => { p with fill := .drawn p.base })).Nodup ∧ drawNumbers pages2 = [] := by decide

/-- A state with ADDI x2, x2, -16 to run, in atomic mode, meets every invariant and has a next state. -/
theorem witness_StepKeepsMemoryForm : (coded 0xFF010113 []).memoryInv = true ∧
    step (coded 0xFF010113 []) = .next (stepped (coded 0xFF010113 [])) := ⟨by decide, step_eq_stepped _ (by decide)⟩
theorem witness_StepKeepsBounds : (coded 0xFF010113 []).heapInv = true ∧ (coded 0xFF010113 []).stackInv = true ∧
    (coded 0xFF010113 []).zeroInv = true ∧ step (coded 0xFF010113 []) = .next (stepped (coded 0xFF010113 [])) :=
  ⟨by decide, by decide, by decide, step_eq_stepped _ (by decide)⟩
theorem witness_PagesOnlyGrow : step (coded 0xFF010113 []) = .next (stepped (coded 0xFF010113 [])) ∧
    (walk (coded 0xFF010113 []).cfg (coded 0xFF010113 []).mem 0x1FFF).isSome = true ∧
    walk (coded 0xFF010113 []).cfg (coded 0xFF010113 []).mem 0x7FFFF000 = none ∧
    (walk (coded 0xFF010113 []).cfg (stepped (coded 0xFF010113 [])).mem 0x7FFFF000).isSome = true ∧
    (coded 0xFF010113 []).drawsInv = true :=
  ⟨step_eq_stepped _ (by decide), by decide, by decide, by decide, by decide⟩
theorem witness_StepWritesAtMostOneRegister : step (coded 0xFF010113 []) = .next (stepped (coded 0xFF010113 [])) ∧
    (stepped (coded 0xFF010113 [])).reg 2 ≠ (coded 0xFF010113 []).reg 2 := ⟨step_eq_stepped _ (by decide), by decide⟩
theorem witness_ReadOnlyPagesKeepTheirBytes : step (coded 0xFF010113 []) = .next (stepped (coded 0xFF010113 [])) ∧
    walk (coded 0xFF010113 []).cfg (coded 0xFF010113 []).mem 0x1000 =
      some { base := 0x1000, writable := false, executable := true, fill := .zero } :=
  ⟨step_eq_stepped _ (by decide), by decide⟩
/-- EBREAK, and PRINT_STRING that stops after printing. -/
theorem witness_AtomicStopsArePrecise :
    (coded 0x00100073 []).cfg.mode = .atomic ∧ (coded 0x00100073 []).stop = none ∧
    step (coded 0x00100073 []) = .next (stepped (coded 0x00100073 [])) ∧
    (stepped (coded 0x00100073 [])).stop = some { reason := .breakpoint 0x1000, instPc := 0x1000 } ∧
    (stepped { coded 0x73 [(17, 4), (10, 0x2FFF)] with
      mem := setByte {} (coded 0x73 []).mem 0x2FFF 72 }).stop.isSome = true :=
  ⟨rfl, rfl, step_eq_stepped _ (by decide), by decide, by decide⟩

/-! ### Witnesses of the pipelined statements -/

/-- A cycle that ticks ticks to `stepped`. -/
theorem ticks_stepped (s : State) (m : s.cfg.mode = .pipelined) (r : s.runs = true)
    (n : (match step s with | .next _ => true | _ => false) = true) (h : (stepped s).hold = false)
    (e : (stepped s).ended = false) : s.ticks (stepped s) := ⟨m, r, step_eq_stepped s n, h, e⟩

/-- ADDI x17, x0, 1; ECALL; NOP; NOP. -/
def printer : State := piped {} [0x00100893, 0x00000073, 0x00000013, 0x00000013]

/-- ECALL in E, in M and in W. -/
theorem witness_StepKeepsBarrier :
    (steps 3 printer).barrierInv = true ∧ (steps 3 printer).el.d.sub = .instr .ecall ∧
    (steps 4 printer).barrierInv = true ∧ (steps 4 printer).ml.d.sub = .instr .ecall ∧
    (steps 5 printer).barrierInv = true ∧ (steps 5 printer).wl.d.sub = .instr .ecall ∧
    step (steps 5 printer) = .next (stepped (steps 5 printer)) :=
  ⟨by decide, by decide, by decide, by decide, by decide, by decide, step_eq_stepped _ (by decide)⟩
/-- The ECALL in W. -/
theorem witness_StepKeepsRecords : (steps 5 printer).recordsInv = true ∧
    step (steps 5 printer) = .next (stepped (steps 5 printer)) := ⟨by decide, step_eq_stepped _ (by decide)⟩
/-- An instruction word in E at 0x1000 with these operand values, nothing else in flight. -/
def inE (w : InstWord) (a b : Word) : State :=
  let s := with2 { mode := .pipelined } [] []
  { s with el := { valid := true, pc := 0x1000, d := decodeRecord w, a := a, b := b, ptaken := false, exc := none } }
theorem witness_ControllerTable_advance : (steps 2 printer).ticks (stepped (steps 2 printer)) :=
  ticks_stepped _ rfl (by decide) (by decide) (by decide) (by decide)

/-- EBREAK in E. -/
theorem witness_EbreakStops :
    (let s := steps 2 (piped {} [0x00100073])
     s.el.valid = true ∧ s.el.exc = none ∧ s.el.d.sub = .instr .ebreak) ∧
    (steps 2 (piped {} [0x00100073])).ticks (stepped (steps 2 (piped {} [0x00100073]))) :=
  ⟨by decide, ticks_stepped _ rfl (by decide) (by decide) (by decide) (by decide)⟩

/-- The first cycle: nothing in D, E, M or W. -/
theorem witness_ControllerTable_normal :
    (let s := piped {} [0x00100293]
     s.el.valid = false ∧ s.ml.valid = false ∧ s.wl.valid = false ∧ s.dl.valid = false) ∧
    (piped {} [0x00100293]).ticks (stepped (piped {} [0x00100293])) :=
  ⟨by decide, ticks_stepped _ rfl (by decide) (by decide) (by decide) (by decide)⟩

/-- BNE x0, x0, 8 under ALWAYS_TAKEN. -/
theorem witness_ControllerTable_squash :
    (let s := steps 2 (piped {} [0x00001463])
     s.el.valid = true ∧ s.el.exc = none ∧ s.el.d.sub.isBranch = true ∧ (stepped s).ml.taken ≠ s.el.ptaken) ∧
    (steps 2 (piped {} [0x00001463])).ticks (stepped (steps 2 (piped {} [0x00001463]))) :=
  ⟨by decide, ticks_stepped _ rfl (by decide) (by decide) (by decide) (by decide)⟩

/-- LD x5, 0(x0) before ADDI x6, x5, 2; and ECALL in E, in M and in W. -/
theorem witness_ControllerTable_stall :
    (let s := steps 2 (piped {} [0x00003283, 0x00228313])
     s.el.valid = true ∧ s.el.exc = none ∧ s.el.d.sub.isLoad = true ∧ s.el.d.sub.dest = some 5 ∧ s.dl.valid = true ∧ s.dl.exc = none ∧
     (decode s.dl.raw).readsReg 5 = true ∧ ¬(s.el.valid = true ∧ s.el.exc = none ∧ s.el.d.sub.isBranch = true)) ∧
    (steps 2 (piped {} [0x00003283, 0x00228313])).ticks (stepped (steps 2 (piped {} [0x00003283, 0x00228313]))) ∧
    ((steps 3 printer).el.valid = true ∧ (steps 4 printer).ml.valid = true ∧ (steps 5 printer).wl.valid = true) ∧
    (steps 5 printer).ticks (stepped (steps 5 printer)) :=
  ⟨by decide, ticks_stepped _ rfl (by decide) (by decide) (by decide) (by decide), by decide,
    ticks_stepped _ rfl (by decide) (by decide) (by decide) (by decide)⟩

/-- From E, from M, and from the register file. -/
theorem witness_OperandsAreForwarded :
    (let s := steps 2 (piped {} [0x00100293, 0x00228313])
     (stepped s).el.valid = true ∧ (stepped s).el.exc = none ∧ (stepped s).el.d.sub.src1 = some 5 ∧ s.el.d.sub.dest = some 5) ∧
    (let s := steps 3 (piped {} [0x00100293, 0x00000013, 0x00228313])
     (stepped s).el.valid = true ∧ (stepped s).el.exc = none ∧ (stepped s).el.d.sub.src1 = some 5 ∧ s.ml.d.sub.dest = some 5) ∧
    (let s := steps 4 (piped {} [0x00100293, 0x00000013, 0x00000013, 0x00228313])
     (stepped s).el.valid = true ∧ (stepped s).el.exc = none ∧ (stepped s).el.d.sub.src1 = some 5 ∧ s.wl.d.sub.dest = some 5) ∧
    (steps 2 (piped {} [0x00100293, 0x00228313])).ticks (stepped (steps 2 (piped {} [0x00100293, 0x00228313]))) :=
  ⟨by decide, by decide, by decide, ticks_stepped _ rfl (by decide) (by decide) (by decide) (by decide)⟩

/-- In E: BLTU x0, x5, -8 with x5 = 1 (taken), JAL x1, -4, JALR x1, 0(x5), LD x5, 8(x7), SD x5, 8(x7), and ADDI, DIV under
FAULT, EBREAK. -/
theorem witness_ControllerTable_execute :
    (inE 0xFE506CE3 0 1).el.d.sub = .instr (.bltu 0 5 (-8)) ∧ (Instr.bltu 0 5 (-8), true) ∈ branchConditions 0 5 (-8) 0 1 ∧
    (stepped (inE 0xFE506CE3 0 1)).ml.taken = true ∧ (stepped (inE 0xFE506CE3 0 1)).ml.target = 0xFF8 ∧
    (inE 0xFFDFF0EF 0 0).el.d.sub = .instr (.jal 1 (-4)) ∧ (inE 0x000280E7 0x2003 0).el.d.sub = .instr (.jalr 1 5 0) ∧
    (inE 0x0083B283 0x2000 0).el.d.sub = .instr (.ld 5 7 8) ∧ (inE 0x0053B423 0x2000 0).el.d.sub = .instr (.sd 7 5 8) ∧
    (inE 0xFFF28313 5 0).el.d.sub = .instr (.addi 6 5 (-1)) ∧ resultOf {} (.addi 6 5 (-1)) 5 0 0x1000 = some 4 ∧
    executeFaults (with2 { divOvf := .fault } [] []) (.div 7 5 6) 0x8000000000000000 0xFFFFFFFFFFFFFFFF = true ∧
    resultOf {} (.div 7 5 6) 0x8000000000000000 0xFFFFFFFFFFFFFFFF 0x1000 = some 0x8000000000000000 ∧
    (inE 0x00100073 0 0).el.d.sub = .instr .ebreak ∧ (inE 0xFFFFFFFF 0 0).el.d.sub = .unimplemented ∧
    (inE 0xFFF28313 5 0).el.valid = true ∧ (inE 0xFFF28313 5 0).el.exc = none := by decide
theorem witness_ControllerTable_executes : (inE 0xFE506CE3 0 1).ticks (stepped (inE 0xFE506CE3 0 1)) ∧
    (inE 0x0083B283 0x2000 0).ticks (stepped (inE 0x0083B283 0x2000 0)) :=
  ⟨ticks_stepped _ rfl (by decide) (by decide) (by decide) (by decide),
    ticks_stepped _ rfl (by decide) (by decide) (by decide) (by decide)⟩
/-- LD x5, 8(x7) and SD x5, 8(x7) in M, at 0x2008. -/
theorem witness_ControllerTable_memory :
    (let s := stepped (inE 0x0083B283 0x2000 0)
     s.ml.valid = true ∧ s.ml.exc = none ∧ s.ml.d.sub = .instr (.ld 5 7 8) ∧ s.ml.addr = 0x2008 ∧
     (stepped s).wl.valid = true ∧ (stepped s).stop = none) ∧
    (let s := stepped (inE 0x0053B423 0x2000 7)
     s.ml.valid = true ∧ s.ml.exc = none ∧ storeKindOf s.ml.d.sub = some .sd ∧ s.ml.sdata = 7 ∧
     byteOf (stepped s) 0x2008 = some 7) ∧
    wStage (stepped (inE 0x0053B423 0x2000 7)) = .goesOn (stepped (inE 0x0053B423 0x2000 7)) false :=
  ⟨by decide, by decide, rfl⟩

/-- JALR x1, 0(x5). -/
theorem witness_ControllerTable_jalr :
    ((stepped (steps 1 (piped {} [0x000280E7]))).el.valid = true ∧
      (stepped (steps 1 (piped {} [0x000280E7]))).el.d.sub = .instr (.jalr 1 5 0)) ∧
    (steps 1 (piped {} [0x000280E7])).ticks (stepped (steps 1 (piped {} [0x000280E7]))) :=
  ⟨by decide, ticks_stepped _ rfl (by decide) (by decide) (by decide) (by decide)⟩

/-- A cycle with E, M and W empty and no JALR in D is a normal one. -/
theorem normal_of_ticks {s t : State} (h : s.ticks t) (e : s.el.valid = false) (m : s.ml.valid = false)
    (w : s.wl.valid = false) (d : (s.dl.valid && (decode s.dl.raw).isJalr) = false) : s.normalCycle t := by
  refine ⟨h, ?_, ?_, ?_, ?_⟩
  · rintro ⟨v, -⟩; rw [e] at v; cases v
  · rintro ⟨_, v, -⟩; rw [e] at v; cases v
  · rintro (⟨v, -⟩ | ⟨v, -⟩ | ⟨v, -⟩)
    · rw [e] at v; cases v
    · rw [m] at v; cases v
    · rw [w] at v; cases v
  · rintro ⟨v, -, j⟩; rw [v, j] at d; cases d

/-- JAL x0, 16; BNE x0, x0, 8 under two strategies; and ADDI. -/
theorem witness_FetchPredicts :
    (piped {} [0x0100006F]).normalCycle (stepped (piped {} [0x0100006F])) ∧
    memFetch {} (stepped (piped {} [0x0100006F])).mem (piped {} [0x0100006F]).fl.pc = .ok 0x0100006F ∧
    decode 0x0100006F#32 = .instr (.jal 0 16) ∧ (decode 0x00001463#32).isBranch = true ∧
    (piped { bp := .btfnt } [0x00001463]).normalCycle (stepped (piped { bp := .btfnt } [0x00001463])) ∧
    (stepped (piped { bp := .btfnt } [0x00001463])).fl.pc = 0x1004 ∧
    (stepped (piped { bp := .ftbnt } [0x00001463])).fl.pc = 0x1008 ∧
    (decode 0x00100293#32).isBranch = false ∧ (decode 0x00100293#32).isJal = false :=
  ⟨normal_of_ticks (ticks_stepped _ rfl (by decide) (by decide) (by decide) (by decide)) (by decide) (by decide) (by decide) (by decide),
    rfl, by decide, by decide,
    normal_of_ticks (ticks_stepped _ rfl (by decide) (by decide) (by decide) (by decide)) (by decide) (by decide) (by decide) (by decide),
    by decide, by decide, by decide, by decide⟩
/-- JAL x0, 0: the same word is fetched at the same address again. -/
theorem witness_FetchPredicts_loop :
    (steps 1 (piped {} [0x0000006F])).normalCycle (stepped (steps 1 (piped {} [0x0000006F]))) ∧
    (stepped (steps 1 (piped {} [0x0000006F]))).dl = (steps 1 (piped {} [0x0000006F])).dl ∧
    decode 0x0000006F#32 = .instr (.jal 0 0) :=
  ⟨normal_of_ticks (ticks_stepped _ rfl (by decide) (by decide) (by decide) (by decide)) (by decide) (by decide) (by decide) (by decide),
    by decide, by decide⟩

/-- ADDI x17, x0, n; ECALL: with n = 5 it holds in cycle 6, with n = 10 it exits, with n = 0 it stops; and MUL and DIV in E. -/
theorem witness_CyclesCharge :
    (let s := steps 5 (piped {} [0x00500893, 0x00000073])
     s.cfg.mode = .pipelined ∧ s.runs = true ∧ (stepped s).hold = true) ∧
    (let s := steps 5 (piped { sysLat := 3 } [0x00A00893, 0x00000073])
     s.cfg.mode = .pipelined ∧ s.runs = true ∧ (stepped s).finished = true) ∧
    (let s := steps 5 (piped {} [0x00000893, 0x00000073])
     s.cfg.mode = .pipelined ∧ s.runs = true ∧ (stepped s).stop.isSome = true) ∧
    (let s := steps 2 (piped { mulLat := 3 } [0x02628333])
     s.runs = true ∧ (stepped s).hold = false ∧ (stepped s).stop = none ∧ (stepped s).finished = false ∧ s.el.d.sub.isMulOp = true) ∧
    step (steps 5 (piped {} [0x00500893, 0x00000073])) = .next (stepped (steps 5 (piped {} [0x00500893, 0x00000073]))) ∧
    (steps 2 (piped { mulLat := 3 } [0x02628333])).ticks (stepped (steps 2 (piped { mulLat := 3 } [0x02628333]))) ∧
    (steps 6 (piped {} [0x00500893, 0x00000073])).runs = false :=
  ⟨by decide, by decide, by decide, by decide, step_eq_stepped _ (by decide),
    ticks_stepped _ rfl (by decide) (by decide) (by decide) (by decide), by decide⟩
/-- A stop in M (the load of an absent page) and one in W (EBREAK). -/
theorem witness_PipelinedEndsKeepLatches :
    (let s := steps 3 (piped {} [0x0003B283])
     s.cfg.mode = .pipelined ∧ s.runs = true ∧ (stepped s).stop.isSome = true ∧ s.ml.valid = true) ∧
    (let s := steps 4 (piped {} [0x00100073])
     s.cfg.mode = .pipelined ∧ s.runs = true ∧ (stepped s).stop.isSome = true ∧ s.wl.valid = true) ∧
    step (steps 3 (piped {} [0x0003B283])) = .next (stepped (steps 3 (piped {} [0x0003B283]))) :=
  ⟨by decide, by decide, step_eq_stepped _ (by decide)⟩
/-- EBREAK in W, in M, and a fetch fault in D and at F (code that ends at the end of its page). -/
theorem witness_TaggedInstructionStopsInWriteback :
    (let s := steps 4 (piped {} [0x00100073])
     s.cfg.mode = .pipelined ∧ s.runs = true ∧ s.wl.valid = true ∧ s.wl.exc = some (.breakpoint 0x1000)) ∧
    (steps 3 (piped {} [0x00100073])).ml.exc.isSome = true ∧
    (steps 3 (piped {} [0x00100073])).ticks (stepped (steps 3 (piped {} [0x00100073]))) ∧
    (let s := piped { entry := 0x3000 } []
     (stepped s).dl.exc.isSome = true ∧ (stepped s).dl.valid = true ∧
     (stepped (stepped s)).el.valid = true ∧ (stepped (stepped s)).el.exc.isSome = true ∧
     (stepped (stepped (stepped s))).ended = false) ∧
    (piped { entry := 0x3000 } []).normalCycle (stepped (piped { entry := 0x3000 } [])) ∧
    memFetch {} (stepped (piped { entry := 0x3000 } [])).mem 0x3000 = .error (.memoryFault .fetch 0x3000) :=
  ⟨by decide, by decide, ticks_stepped _ rfl (by decide) (by decide) (by decide) (by decide), by decide,
    normal_of_ticks (ticks_stepped _ rfl (by decide) (by decide) (by decide) (by decide)) (by decide) (by decide) (by decide) (by decide),
    rfl⟩
theorem witness_PredictorHasNoArchitecturalEffect :
    (let s := piped {} [0x00001463]
     let q : State := { s with cfg := { s.cfg with bp := .btfnt } }
     step s = .next (stepped s) ∧ step q = .next (stepped q) ∧ (stepped s).fl ≠ (stepped q).fl) :=
  ⟨step_eq_stepped _ (by decide), step_eq_stepped _ (by decide), by decide⟩
theorem witness_WarmupCycle :
    ({ mode := .pipelined } : Config).mode = .pipelined ∧
    launch { mode := .pipelined } { pages := pages2, cells := [] } [] (Vector.replicate 32 0) =
      .next (State.initial { mode := .pipelined } { pages := pages2, cells := [] } [] (Vector.replicate 32 0)) ∧
    memFetch { mode := .pipelined } { pages := pages2, cells := [] } 0x1000 = .ok 0 := by
  refine ⟨rfl, ?_, rfl⟩
  unfold launch
  rw [if_pos (by decide)]

/-- An instruction alone in E: ADD x7, x5, x6. -/
def alone : State :=
  { inE 0x006283B3#32 40 2 with regs := (with2 { mode := .pipelined } [(5, 40), (6, 2)] []).regs }

theorem witness_PipelineRunsInstruction :
    alone.cfg.mode = .pipelined ∧ alone.ended = false ∧ alone.hold = false ∧ breakpointEnabled alone.breakpoints alone.pc = false ∧
    alone.dl.valid = false ∧ alone.ml.valid = false ∧ alone.wl.valid = false ∧ alone.el.valid = true ∧ alone.el.pc = alone.pc ∧
    alone.el.d.sub = .instr (.add 7 5 6) ∧ alone.el.exc = none ∧ alone.el.a = alone.reg 5 ∧ alone.el.b = alone.reg 6 ∧
    (steps 3 alone).reg 7 = 42 := by decide

end Sys2Proof.Tests
end

section
/-! PROOFS. Launch (00_scope.md R10, 10_state.md R33, 70_reset_and_hazards.md R250-R254): what a launch accepts, the state it
leaves, and that this state meets the invariants. -/

namespace Sys2Proof.Machine

/-! ### What a launch accepts -/

/-- The premises of a launch on its parameters, one by one. -/
theorem configOk_iff (c : Config) :
    configOk c = true ↔ c.heapBase ≤ c.heapMax ∧ c.heapMax ≤ c.stackTop ∧ c.stackTop ≤ c.maxAddr ∧
      c.entry.toNat % 4 = 0 ∧ 2 ≤ c.pageBits ∧ c.pageBits ≤ 63 ∧ sysnoInjective c.sysno = true := by
  simp [configOk, and_assoc]

/-- A launch that happens leaves the reset state, and its premises hold. -/
theorem launch_next_iff (c : Config) (m : Memory) (bps : List Breakpoint) (draw : Vector Word 32) (t : State) :
    launch c m bps draw = .next t ↔ configOk c = true ∧ m.wf c = true ∧ t = State.initial c m bps draw := by
  unfold launch
  split
  · rename_i ok
    obtain ⟨okc, okm⟩ := Bool.and_eq_true _ _ ▸ ok
    simp [okc, okm, eq_comm]
  · rename_i bad
    constructor
    · intro h; cases h
    · rintro ⟨okc, okm, -⟩; simp [okc, okm] at bad

/-- Parameters outside the premises: the launch is refused, whatever the image. -/
theorem launch_refused_of_configOk_false {c : Config} (h : configOk c = false) (m : Memory) (bps : List Breakpoint)
    (draw : Vector Word 32) : launch c m bps draw = .refused .launchRejected := by
  simp [launch, h]

/-- Settles O40: each premise broken makes `configOk` false, and a relaunch reads only the configuration and the breakpoint
table of the state before it. -/
theorem relaunchAndRejection : Obligations.RelaunchAndRejection := by
  refine ⟨fun c m bps draw broken => launch_refused_of_configOk_false ?_ m bps draw, ?_⟩
  · rw [Bool.eq_false_iff, ne_eq, configOk_iff]
    rintro ⟨base_le_max, max_le_stack, stack_le_addr, aligned, -⟩
    rcases broken with h | h | h | h
    · exact absurd base_le_max (BitVec.not_le.2 h)
    · exact absurd max_le_stack (BitVec.not_le.2 h)
    · exact absurd stack_le_addr (BitVec.not_le.2 h)
    · exact h aligned
  · intro s u m draw same_cfg same_bps
    rw [State.relaunch, State.relaunch, same_cfg, same_bps]

/-! ### The reset state meets the invariants -/

/-- The stack pointer starts at STACK_TOP (10_state.md R33). -/
theorem State.initial_reg_sp (c : Config) (m : Memory) (bps : List Breakpoint) (draw : Vector Word 32) :
    (State.initial c m bps draw).reg 2#5 = c.stackTop :=
  Vector.getElem_set_self _

/-- Slot 0 of the register file starts at 0 (10_state.md R33). -/
theorem State.initial_zeroInv (c : Config) (m : Memory) (bps : List Breakpoint) (draw : Vector Word 32) :
    (State.initial c m bps draw).zeroInv = true := by
  have slot : (State.initial c m bps draw).regs.get 0 = 0 :=
    (Vector.getElem_set_ne (by decide : 2 < 32) _ (by decide)).trans (Vector.getElem_set_self _)
  rw [State.zeroInv, slot]
  rfl

/-- The counter of draws starts above every draw of the image (log 4). -/
theorem lt_nextDraw_of_mem_drawNumbers {ps : List Page} {n : Nat} (h : n ∈ drawNumbers ps) : n < nextDraw ps := by
  induction ps with
  | nil => cases h
  | cons p ps ih =>
    unfold drawNumbers at h
    unfold nextDraw
    cases hf : p.fill with
    | zero =>
      rw [hf] at h
      exact ih h
    | drawn k =>
      rw [hf] at h
      rcases List.mem_cons.1 h with rfl | h
      · exact lt_of_lt_of_le (Nat.lt_succ_self _) (le_max_left _ _)
      · exact lt_of_lt_of_le (ih h) (le_max_right _ _)

/-- Draws of their own stay so at the launch, since the counter starts above them. -/
theorem State.initial_drawsInv (c : Config) (m : Memory) (bps : List Breakpoint) (draw : Vector Word 32)
    (own : (drawNumbers m.pages).Nodup) : (State.initial c m bps draw).drawsInv = true := by
  simp only [State.drawsInv, Bool.and_eq_true, decide_eq_true_eq, List.all_eq_true]
  exact ⟨own, fun _ h => lt_nextDraw_of_mem_drawNumbers h⟩

/-- Settles O42: a launch that happens leaves the reset state; its bounds are those of R10, its latches bubbles. -/
theorem invariantsAtLaunch : Obligations.InvariantsAtLaunch := by
  intro c m bps draw t launched
  obtain ⟨okc, okm, rfl⟩ := (launch_next_iff c m bps draw t).1 launched
  obtain ⟨base_le_max, max_le_stack, stack_le_addr, -⟩ := (configOk_iff c).1 okc
  refine ⟨okm, ?heap, ?stack, State.initial_zeroInv c m bps draw, rfl, rfl, State.initial_drawsInv c m bps draw⟩
  case heap =>
    simp only [State.heapInv, Bool.and_eq_true, decide_eq_true_eq]
    exact ⟨le_refl c.heapBase.toNat, base_le_max⟩
  case stack =>
    simp only [State.stackInv, State.initial_reg_sp, Bool.and_eq_true, decide_eq_true_eq]
    exact ⟨max_le_stack, stack_le_addr⟩

end Sys2Proof.Machine
end

section
/-! PROOFS. One instruction alone in the pipeline (70_reset_and_hazards.md R279, 00_scope.md R8): the part of the state a run
shows apart from timing, that the shared operations act on that part alone, the three cycles of the instruction, and that M and
W do what the atomic engine's Memory and Writeback do. -/

namespace Sys2Proof.Machine

/-! ### The architectural part of a state -/

/-- The state with the program counter, CYCLES, the resumption mark and the latches erased: what is left is what a run shows
apart from timing (70_reset_and_hazards.md R279), the configuration and the breakpoint table. -/
def State.architecture (s : State) : State :=
  { s with pc := 0, cycles := 0, resuming := false, fl := ⟨0⟩, dl := .bubble, el := .bubble, ml := .bubble, wl := .bubble }

@[simp] theorem State.architecture_cfg (s : State) : s.architecture.cfg = s.cfg := rfl
@[simp] theorem State.architecture_mem (s : State) : s.architecture.mem = s.mem := rfl
@[simp] theorem State.architecture_heap (s : State) : s.architecture.heap = s.heap := rfl
@[simp] theorem State.architecture_input (s : State) : s.architecture.input = s.input := rfl
@[simp] theorem State.architecture_reg (s : State) (r : Reg) : s.architecture.reg r = s.reg r := rfl

/-- What is read of the architectural part is the same in states that share it. -/
theorem agree_of_architecture_eq {α : Type} (f : State → α) {s t : State} (h : t.architecture = s.architecture) :
    f t.architecture = f s.architecture := congrArg f h

/-- States with one architectural part show the same. -/
theorem sameArchitecture_of_architecture_eq {s t : State} (h : t.architecture = s.architecture) : SameArchitecture s t :=
  { regs := fun r => agree_of_architecture_eq (State.reg · r) h
    mem := agree_of_architecture_eq State.mem h
    draws := agree_of_architecture_eq State.draws h
    icount := agree_of_architecture_eq State.icount h
    engine := {
      heap := agree_of_architecture_eq State.heap h
      finished := agree_of_architecture_eq State.finished h
      exitStatus := agree_of_architecture_eq State.exitStatus h
      stop := agree_of_architecture_eq State.stop h
      hold := agree_of_architecture_eq State.hold h
      output := agree_of_architecture_eq State.output h
      input := agree_of_architecture_eq State.input h } }

/-! ### The shared operations act on the architectural part alone -/

theorem State.architecture_setReg (s : State) (r : Reg) (v : Word) :
    s.architecture.setReg r v = (s.setReg r v).architecture := by
  unfold State.setReg; split <;> rfl

theorem State.architecture_alloc (s : State) (p : Nat) (w x : Bool) :
    s.architecture.alloc p w x = (s.alloc p w x).architecture := by
  unfold State.alloc
  rw [State.architecture_cfg, State.architecture_mem]
  split
  · cases findPage s.mem.pages p <;> rfl
  · rfl

theorem State.architecture_allocPages (n p : Nat) (s : State) :
    State.allocPages n p s.architecture = (State.allocPages n p s).architecture := by
  induction n generalizing p s with
  | zero => rfl
  | succ n ih => rw [State.allocPages, State.architecture_alloc, ih, State.architecture_cfg, State.allocPages]

/-- The commit (40_execution_step.md R99). -/
theorem commit_architecture (r : Reg) (v : Word) (s : State) :
    commit r v s.architecture = (commit r v s).map State.architecture := by
  unfold commit
  split
  · rfl
  · split
    · simp only [State.architecture_cfg, State.architecture_alloc, State.architecture_setReg]
      split <;> rfl
    · rw [State.architecture_setReg]; rfl

/-- A service's or an ECALL's result with its state changed. -/
def ServiceResult.mapState (f : State → State) : ServiceResult → ServiceResult
  | .holds => .holds
  | .stops e out => .stops e out
  | .done res t => .done res (f t)

/-- The nine services (45_system.md R203-R211). -/
theorem runService_architecture (v : Service) (arg : Word) (s : State) :
    runService v arg s.architecture = (runService v arg s).mapState State.architecture := by
  cases v with
  | printInt => rfl
  | printChar => rfl
  | printString =>
    simp only [runService, servicePrintString, State.architecture_cfg, State.architecture_mem]
    split <;> rfl
  | readInt =>
    simp only [runService, serviceReadInt, State.architecture_input]
    split <;> rfl
  | readChar =>
    simp only [runService, serviceReadChar, State.architecture_input]
    split <;> rfl
  | sbrk =>
    simp only [runService, serviceSbrk, State.architecture_cfg, State.architecture_heap, State.architecture_allocPages]
    split <;> rfl
  | heapBaseQ => rfl
  | heapMaxQ => rfl
  | exit => rfl

/-- The result commit of an ECALL (45_system.md R200, R211). -/
theorem commitResult_architecture (v : Service) (res : Word) (before after : State) :
    commitResult v res before.architecture after.architecture =
      (commitResult v res before after).mapState State.architecture := by
  unfold commitResult
  rw [State.architecture_cfg, commit_architecture]
  cases commit before.cfg.sysResReg res after with
  | error e => rfl
  | ok t => by_cases exits : v = .exit <;> simp [Except.map, ServiceResult.mapState, exits, State.architecture]

/-- ECALL's Writeback (45_system.md R200). -/
theorem ecallEffect_architecture (s : State) :
    ecallEffect s.architecture = (ecallEffect s).mapState State.architecture := by
  unfold ecallEffect
  simp only [State.architecture_cfg, State.architecture_reg, runService_architecture]
  cases serviceOf s.cfg.sysno (s.reg s.cfg.sysNumReg) with
  | none => rfl
  | some v =>
    cases h : runService v (s.reg s.cfg.sysArgReg) s with
    | holds => simp [h, ServiceResult.mapState]
    | stops e out => simp [h, ServiceResult.mapState]
    | done res t => simpa [h, ServiceResult.mapState] using commitResult_architecture v res s t

/-- A commit answers alike in states with one architectural part. -/
theorem commit_congr {u v : State} (same : u.architecture = v.architecture) (r : Reg) (x : Word) :
    (commit r x u).map State.architecture = (commit r x v).map State.architecture := by
  rw [← commit_architecture, ← commit_architecture, same]

/-- An ECALL answers alike in states with one architectural part. -/
theorem ecallEffect_congr {u v : State} (same : u.architecture = v.architecture) :
    (ecallEffect u).mapState State.architecture = (ecallEffect v).mapState State.architecture := by
  rw [← ecallEffect_architecture, ← ecallEffect_architecture, same]

/-! ### The three cycles of an instruction with nothing else in flight -/

/-- The pipelined engine runs, and no breakpoint is at the address `p` of the instruction in flight. -/
structure RunsAt (p : Word) (s : State) : Prop where
  mode     : s.cfg.mode = .pipelined
  ended    : s.ended = false
  hold     : s.hold = false
  unbroken : breakpointEnabled s.breakpoints p = false

theorem RunsAt.of_architecture_eq {p : Word} {s t : State} (h : RunsAt p s) (same : t.architecture = s.architecture) :
    RunsAt p t where
  mode := (agree_of_architecture_eq (fun s => s.cfg.mode) same).trans h.mode
  ended := (agree_of_architecture_eq State.ended same).trans h.ended
  hold := (agree_of_architecture_eq State.hold same).trans h.hold
  unbroken := (agree_of_architecture_eq (fun s => breakpointEnabled s.breakpoints p) same).trans h.unbroken

theorem RunsAt.setMem {p : Word} {s : State} (h : RunsAt p s) (m : Memory) : RunsAt p (s.setMem m) :=
  ⟨h.mode, h.ended, h.hold, h.unbroken⟩

/-- The check point does not fire where W holds nothing, or the instruction at `p`. -/
theorem RunsAt.step_eq_cycle {p : Word} {s : State} (h : RunsAt p s) (inW : s.wl.valid = true → s.wl.pc = p) :
    step s = afterStep (cycle s) := by
  have unpaused : s.atCheckPoint = false := by
    unfold State.atCheckPoint
    rw [h.mode]
    by_cases v : s.wl.valid = true
    · simp [inW v, h.unbroken]
    · simp [v]
  obtain ⟨_, performed⟩ | ⟨idle, _⟩ := step_cases s
  · rw [performed, engineStep, h.mode]
  · simp [State.runs, h.ended, h.hold, unpaused] at idle

theorem wStage_invalid {s : State} (h : s.wl.valid = false) : wStage s = .goesOn s false := by
  rw [wStage, if_pos h]

/-- A tag is raised in W (70_reset_and_hazards.md R283). -/
theorem wStage_tagged {s : State} {e : StopReason} (v : s.wl.valid = true) (x : s.wl.exc = some e) :
    wStage s = .stops e s := by
  simp [wStage, v, x]

theorem mStage_invalid {l : MemoryLatch} (c : Config) (m : Memory) (h : l.valid = false) :
    mStage c m l = .ok { mem := m, wn := l } := by
  simp [mStage, h]

/-- With no instruction in D, E receives a bubble in every case of the controller (70_reset_and_hazards.md R262, R268). -/
theorem tick_el_invalid {u : State} (b : Bool) (l : MemoryLatch) (h : u.dl.valid = false) : (tick b l u).el.valid = false := by
  have decodes (mn : MemoryLatch) : (dStage u mn l).en = .bubble := by rw [dStage, if_pos h]
  show (controller u _ _ _).e.valid = false
  unfold controller
  repeat' split
  · rfl
  · rfl
  · rw [decodes]; rfl
  · rw [decodes]; rfl

@[simp] theorem latchExecuted_valid (l : MemoryLatch) (x : Executed) : (latchExecuted l x).valid = l.valid := by
  cases x <;> rfl
@[simp] theorem latchExecuted_pc (l : MemoryLatch) (x : Executed) : (latchExecuted l x).pc = l.pc := by cases x <;> rfl
@[simp] theorem latchExecuted_d (l : MemoryLatch) (x : Executed) : (latchExecuted l x).d = l.d := by cases x <;> rfl

/-- The cycle of an instruction in E: M receives what the E stage gave, and nothing a run shows changes. -/
theorem execute_cycle {p : Word} {s : State} (h : RunsAt p s) (d : s.dl.valid = false) (m : s.ml.valid = false)
    (w : s.wl.valid = false) :
    ∃ t, step s = .next t ∧ t.architecture = s.architecture ∧ t.ml = (eStage s.cfg s.el).mn ∧ t.el.valid = false ∧
      t.wl.valid = false := by
  refine ⟨(tick false s.ml (s.setMem s.mem)).endResume, ?_, rfl, rfl, tick_el_invalid false s.ml d, m⟩
  rw [h.step_eq_cycle (by simp [w])]
  simp [cycle, wStage_invalid w, mStage_invalid s.cfg s.mem m, afterStep]

/-- The cycle of an instruction in M whose access stops (70_reset_and_hazards.md R260, R276). -/
theorem memory_cycle_stops {p : Word} {s : State} {e : StopReason} (h : RunsAt p s) (w : s.wl.valid = false)
    (hm : mStage s.cfg s.mem s.ml = .error e) :
    ∃ t, step s = .next t ∧ t.architecture = (s.raise e s.ml.pc).architecture := by
  refine ⟨((s.raise e s.ml.pc).addCycles 1).endResume, ?_, rfl⟩
  rw [h.step_eq_cycle (by simp [w])]
  simp [cycle, wStage_invalid w, hm, afterStep]

/-- The cycle of an instruction in M that goes on: W receives what the M stage gave. -/
theorem memory_cycle_goes_on {p : Word} {s : State} {r : MResult} (h : RunsAt p s) (e : s.el.valid = false)
    (w : s.wl.valid = false) (hm : mStage s.cfg s.mem s.ml = .ok r) :
    ∃ t, step s = .next t ∧ t.architecture = (s.setMem r.mem).architecture ∧ t.wl = r.wn ∧ t.ml.valid = false := by
  refine ⟨(tick false r.wn (s.setMem r.mem)).endResume, ?_, rfl, rfl, ?_⟩
  · rw [h.step_eq_cycle (by simp [w])]
    simp [cycle, wStage_invalid w, hm, afterStep]
  · show (eStage s.cfg s.el).mn.valid = false
    rw [eStage_idle _ _ (.inl e)]
    exact e

/-- The state the W stage leaves for the instruction at `p`, apart from the tick. -/
def WResult.leaves (p : Word) (s : State) : WResult → State
  | .holds => s.holdForInput
  | .stops e t => t.raise e p
  | .finished t => t
  | .goesOn t _ => t

/-- The cycle of an instruction in W does what the W stage does (70_reset_and_hazards.md R259). -/
theorem writeback_cycle {p : Word} {s : State} (h : RunsAt p s) (inW : s.wl.pc = p) (m : s.ml.valid = false) :
    ∃ t, step s = .next t ∧ t.architecture = ((wStage s).leaves p s).architecture := by
  rw [h.step_eq_cycle fun _ => inW]
  cases hw : wStage s with
  | holds => exact ⟨s.holdForInput.endResume, by simp [cycle, hw, afterStep], rfl⟩
  | stops e t => exact ⟨((t.raise e p).addCycles 1).endResume, by simp [cycle, hw, afterStep, inW], rfl⟩
  | finished t => exact ⟨(t.addCycles (1 + s.cfg.sysLat)).endResume, by simp [cycle, hw, afterStep], rfl⟩
  | goesOn t b =>
    obtain ⟨-, -, -, -, -, -, -, -, -, sameM, -⟩ := wStage_goesOn hw
    have hm : mStage t.cfg t.mem t.ml = .ok { mem := t.mem, wn := t.ml } :=
      mStage_invalid _ _ (by rw [sameM, m])
    exact ⟨(tick b t.ml (t.setMem t.mem)).endResume, by simp [cycle, hw, hm, afterStep], rfl⟩

/-! ### W does what the atomic Writeback does -/

theorem notX0_getD (o : Option Reg) : (notX0 o).getD 0 = o.getD 0 := by
  cases o with
  | none => rfl
  | some r =>
    by_cases z : r = 0
    · rw [z]; rfl
    · rw [notX0, if_neg z]

/-- A destination field x0 counts as none, and either commits to x0 (30_encoding.md R84). -/
theorem dest_getD (i : Instr) : (Decoded.instr i).dest.getD 0 = i.destField.getD 0 := notX0_getD i.destField

theorem isEcall_eq_false {i : Instr} (h : i ≠ .ecall) : (Decoded.instr i).isEcall = false := by
  unfold Decoded.isEcall
  split
  · rename_i e; exact absurd (Decoded.instr.inj e) h
  · rfl

/-- An instruction without a destination commits to x0, which discards (10_state.md R20). -/
theorem wStage_of_commit {s : State} (v : s.wl.valid = true) (x : s.wl.exc = none) (n : s.wl.d.sub.isEcall = false) :
    wStage s = match commit (s.wl.d.sub.dest.getD 0) s.wl.value s with
      | .error e => .stops e s
      | .ok t => .goesOn t.count false := by
  simp only [wStage, v, x, n]
  cases s.wl.d.sub.dest <;> rfl

/-- The W stage and the atomic Writeback commit one value alike (70_reset_and_hazards.md R259, 40_execution_step.md R99). -/
theorem wStage_writeback {u v : State} (same : u.architecture = v.architecture) (valid : u.wl.valid = true)
    (untagged : u.wl.exc = none) (noEcall : u.wl.d.sub.isEcall = false) (npc : Word) :
    ∃ t, writeback (u.wl.d.sub.dest.getD 0) u.wl.value npc v = .next t ∧
      ((wStage u).leaves v.pc u).architecture = t.architecture := by
  have alike := commit_congr same (u.wl.d.sub.dest.getD 0) u.wl.value
  rw [wStage_of_commit valid untagged noEcall]
  unfold writeback
  cases hu : commit (u.wl.d.sub.dest.getD 0) u.wl.value u with
  | error e =>
    cases hv : commit (u.wl.d.sub.dest.getD 0) u.wl.value v with
    | error e' =>
      rw [hu, hv] at alike
      cases alike
      exact ⟨v.raise e v.pc, rfl, congrArg (State.raise · e v.pc) same⟩
    | ok t => rw [hu, hv] at alike; cases alike
  | ok w =>
    cases hv : commit (u.wl.d.sub.dest.getD 0) u.wl.value v with
    | error e => rw [hu, hv] at alike; cases alike
    | ok t =>
      rw [hu, hv] at alike
      exact ⟨t.retire npc, rfl, congrArg State.count (Except.ok.inj alike)⟩

/-- The state an ECALL at `p` leaves, by the end of its effect; the pc and CYCLES apart. -/
def ServiceResult.leaves (p : Word) (s : State) : ServiceResult → State
  | .holds => s.holdForInput
  | .stops e out => (s.emit out).raise e p
  | .done _ t => t.count

theorem ServiceResult.leaves_architecture (p : Word) (s : State) (o : ServiceResult) :
    (o.leaves p s).architecture = (o.mapState State.architecture).leaves p s.architecture := by
  cases o <;> rfl

/-- An ECALL in W leaves what its effect leaves (70_reset_and_hazards.md R259). -/
theorem wStage_ecall {s : State} (valid : s.wl.valid = true) (untagged : s.wl.exc = none)
    (ecall : s.wl.d.sub = .instr .ecall) (p : Word) : (wStage s).leaves p s = (ecallEffect s).leaves p s := by
  simp only [wStage, valid, untagged, ecall, Decoded.isEcall]
  cases ecallEffect s with
  | holds => rfl
  | stops e out => rfl
  | done res t => by_cases f : t.finished = true <;> simp [f, WResult.leaves, ServiceResult.leaves]

/-- An atomic ECALL leaves what its effect leaves (45_system.md R200). -/
theorem execEcall_leaves (s : State) :
    ∃ t, execEcall s = .next t ∧ t.architecture = ((ecallEffect s).leaves s.pc s).architecture := by
  unfold execEcall
  cases ecallEffect s with
  | holds => exact ⟨_, rfl, rfl⟩
  | stops e out => exact ⟨_, rfl, rfl⟩
  | done res t => exact ⟨_, rfl, rfl⟩

/-- The W stage and the atomic engine perform an ECALL alike (70_reset_and_hazards.md R259, 45_system.md R200). -/
theorem wStage_execEcall {u v : State} (same : u.architecture = v.architecture) (valid : u.wl.valid = true)
    (untagged : u.wl.exc = none) (ecall : u.wl.d.sub = .instr .ecall) :
    ∃ t, execEcall v = .next t ∧ ((wStage u).leaves v.pc u).architecture = t.architecture := by
  obtain ⟨t, done, leaves⟩ := execEcall_leaves v
  refine ⟨t, done, ?_⟩
  rw [leaves, wStage_ecall valid untagged ecall, ServiceResult.leaves_architecture, ServiceResult.leaves_architecture,
    ecallEffect_congr same, same]

/-! ### What Execute gives fits the instruction -/

/-- The access a result of Execute asks of Memory, if it is a load's. -/
def Executed.loadKind : Executed → Option LoadKind
  | .load k _ => some k
  | _ => none

/-- The access a result of Execute asks of Memory, if it is a store's. -/
def Executed.storeKind : Executed → Option StoreKind
  | .store k _ _ => some k
  | _ => none

/-- The atomic Writeback of a result of Execute commits a register or raises a stop. -/
def Executed.commitsOrStops : Executed → Bool
  | .store .. | .branch .. | .nothing => false
  | _ => true

/-- The classes by which M and W go (30_encoding.md R84, R85) agree with the shape by which the atomic engine goes. -/
structure Executed.Fits (i : Instr) (x : Executed) : Prop where
  load  : loadKindOf (.instr i) = x.loadKind
  store : storeKindOf (.instr i) = x.storeKind
  dest  : (x.commitsOrStops || i.destField.isNone) = true

/-- An ALU operation fits every instruction that is no load and no store. -/
theorem aluExecuted_fits {i : Instr} {c : Config} {op : AluOp} {a b pc : Word} (hl : loadKindOf (.instr i) = none)
    (hs : storeKindOf (.instr i) = none) : (aluExecuted c op a b pc).Fits i := by
  unfold aluExecuted
  split <;> exact ⟨hl, hs, rfl⟩

/-- What Execute gives fits its instruction. -/
theorem executeInstr_fits (c : Config) (i : Instr) (a b pc : Word) : (executeInstr c i a b pc).Fits i := by
  cases i with
  | lui | auipc | jal | jalr | ecall | ebreak => exact ⟨rfl, rfl, rfl⟩
  | lb | lh | lw | ld | lbu | lhu | lwu | sb | sh | sw | sd => exact ⟨rfl, rfl, rfl⟩
  | beq | bne | blt | bge | bltu | bgeu => exact ⟨rfl, rfl, rfl⟩
  | _ => exact aluExecuted_fits rfl rfl

/-! ### M does what the atomic Memory does -/

section
variable {c : Config} {m : Memory} {l : MemoryLatch}

theorem mStage_noAccess (hl : loadKindOf l.d.sub = none) (hs : storeKindOf l.d.sub = none) :
    mStage c m l = .ok { mem := m, wn := l } := by
  simp [mStage, hl, hs]

theorem mStage_tagged {e : StopReason} (h : l.exc = some e) : mStage c m l = .ok { mem := m, wn := l } := by
  simp [mStage, h]

theorem mStage_load {k : LoadKind} (hl : loadKindOf l.d.sub = some k) (valid : l.valid = true) (untagged : l.exc = none) :
    mStage c m l = (memRead c m l.addr k.bytes).map fun v => { mem := m, wn := { l with value := k.extend v } } := by
  rw [mStage, if_pos ⟨valid, untagged⟩, hl]
  cases h : memRead c m l.addr k.bytes <;> simp [h, Except.map]

theorem mStage_store {k : StoreKind} (hl : loadKindOf l.d.sub = none) (hs : storeKindOf l.d.sub = some k)
    (valid : l.valid = true) (untagged : l.exc = none) :
    mStage c m l = (memWrite c m l.addr k.bytes l.sdata).map fun m' => { mem := m', wn := l } := by
  rw [mStage, if_pos ⟨valid, untagged⟩, hl, hs]
  cases h : memWrite c m l.addr k.bytes l.sdata <;> simp [h, Except.map]

end

/-- The atomic end `o` of an instruction with destination `rd` in `s` is the one that the M stage's result and W after it
come to: the stop M raises, the stop the W latch is tagged with, or the commit of its value. -/
def EndsAs (o : StepOutcome) (rd : Reg) (s : State) : Except StopReason MResult → Prop
  | .error e => o = .next (s.raise e s.pc)
  | .ok r => (∃ e, r.wn.exc = some e ∧ r.mem = s.mem ∧ o = .next (s.raise e s.pc)) ∨
      (r.wn.exc = none ∧ ∃ npc, o = writeback rd r.wn.value npc (s.setMem r.mem))

/-- The M stage and the atomic Memory perform what Execute gave alike (70_reset_and_hazards.md R260). -/
theorem mStage_finish {i : Instr} {x : Executed} (fits : x.Fits i) {l : MemoryLatch} (valid : l.valid = true)
    (untagged : l.exc = none) (holds : l.d.sub = .instr i) (s : State) :
    EndsAs (finish x (i.destField.getD 0) s) (i.destField.getD 0) s (mStage s.cfg s.mem (latchExecuted l x)) := by
  obtain ⟨load, store, dest⟩ := fits
  rw [← holds, ← latchExecuted_d l x] at load store
  cases x with
  | value v =>
    rw [mStage_noAccess load store]
    exact .inr ⟨untagged, nextPc s, rfl⟩
  | load k ea =>
    rw [mStage_load load valid untagged, finish, finishLoad]
    dsimp only [latchExecuted]
    cases memRead s.cfg s.mem ea k.bytes with
    | error e => rfl
    | ok v => exact .inr ⟨untagged, nextPc s, rfl⟩
  | store k ea data =>
    rw [Option.isNone_iff_eq_none.1 dest, mStage_store load store valid untagged, finish, finishStore]
    dsimp only [latchExecuted]
    cases memWrite s.cfg s.mem ea k.bytes data with
    | error e => rfl
    | ok m => exact .inr ⟨untagged, nextPc s, rfl⟩
  | jump link target =>
    rw [mStage_noAccess load store]
    exact .inr ⟨untagged, target, rfl⟩
  | branch taken target =>
    rw [Option.isNone_iff_eq_none.1 dest, mStage_noAccess load store]
    exact .inr ⟨untagged, if taken then target else nextPc s, rfl⟩
  | stops e =>
    rw [mStage_tagged (e := e) rfl]
    exact .inl ⟨e, rfl, rfl, rfl⟩
  | nothing =>
    rw [Option.isNone_iff_eq_none.1 dest, mStage_noAccess load store]
    exact .inr ⟨untagged, nextPc s, rfl⟩

/-! ### The whole way -/

/-- After the end of the run a step changes nothing (40_execution_step.md R102). -/
theorem step_of_ended {s : State} (h : s.ended = true) : step s = .next s := by
  unfold step stepOnce
  simp [h]

/-- From M on, with nothing else in flight: where the atomic end is the one M and W come to, two cycles give it. -/
theorem memory_and_writeback_cycles {s u : State} {o : StepOutcome} (same : u.architecture = s.architecture)
    (running : RunsAt s.pc u) (noE : u.el.valid = false) (noW : u.wl.valid = false) (valid : u.ml.valid = true)
    (pc : u.ml.pc = s.pc) (noEcall : u.ml.d.sub.isEcall = false)
    (ends : EndsAs o (u.ml.d.sub.dest.getD 0) s (mStage u.cfg u.mem u.ml)) :
    ∃ t2 t3 t, step u = .next t2 ∧ step t2 = .next t3 ∧ o = .next t ∧ t3.architecture = t.architecture := by
  cases hm : mStage u.cfg u.mem u.ml with
  | error e =>
    rw [hm] at ends
    obtain ⟨t2, step2, arch2⟩ := memory_cycle_stops running noW hm
    have ended : t2.ended = true := by
      have stop : t2.stop = some { reason := e, instPc := u.ml.pc } := agree_of_architecture_eq State.stop arch2
      simp [State.ended, stop]
    refine ⟨t2, t2, s.raise e s.pc, step2, step_of_ended ended, ends, ?_⟩
    rw [arch2, pc]
    exact congrArg (State.raise · e s.pc) same
  | ok r =>
    rw [hm] at ends
    obtain ⟨t2, step2, arch2, inW, noM⟩ := memory_cycle_goes_on running noE noW hm
    obtain ⟨-, value, handed⟩ := mStage_ok hm
    have running2 : RunsAt s.pc t2 := (running.setMem r.mem).of_architecture_eq arch2
    have same2 : t2.architecture = (s.setMem r.mem).architecture := arch2.trans (congrArg (State.setMem · r.mem) same)
    have valid2 : t2.wl.valid = true := by rw [inW, handed]; exact valid
    have pc2 : t2.wl.pc = s.pc := by rw [inW, handed]; exact pc
    have sub2 : t2.wl.d.sub = u.ml.d.sub := by rw [inW, handed]
    obtain ⟨t3, step3, arch3⟩ := writeback_cycle running2 pc2 noM
    rcases ends with ⟨e, tagged, kept, ends⟩ | ⟨untagged, npc, ends⟩
    · refine ⟨t2, t3, s.raise e s.pc, step2, step3, ends, ?_⟩
      have stops : wStage t2 = .stops e t2 := wStage_tagged valid2 (inW ▸ tagged)
      rw [arch3, stops]
      rw [kept] at same2
      exact congrArg (State.raise · e s.pc) same2
    · obtain ⟨t, done, alike⟩ := wStage_writeback same2 valid2 (inW ▸ untagged) (sub2 ▸ noEcall) npc
      refine ⟨t2, t3, t, step2, step3, ?_, arch3.trans alike⟩
      rw [ends, ← done, sub2, inW]

/-- From M on, an ECALL with nothing else in flight: M does nothing, and W performs it. -/
theorem ecall_cycles {s u : State} (same : u.architecture = s.architecture) (running : RunsAt s.pc u)
    (noE : u.el.valid = false) (noW : u.wl.valid = false) (valid : u.ml.valid = true) (untagged : u.ml.exc = none)
    (pc : u.ml.pc = s.pc) (ecall : u.ml.d.sub = .instr .ecall) :
    ∃ t2 t3 t, step u = .next t2 ∧ step t2 = .next t3 ∧ execEcall s = .next t ∧ t3.architecture = t.architecture := by
  have hm : mStage u.cfg u.mem u.ml = .ok { mem := u.mem, wn := u.ml } :=
    mStage_noAccess (by rw [ecall]; rfl) (by rw [ecall]; rfl)
  obtain ⟨t2, step2, arch2, inW, noM⟩ := memory_cycle_goes_on running noE noW hm
  obtain ⟨t3, step3, arch3⟩ := writeback_cycle (running.of_architecture_eq arch2) (inW ▸ pc) noM
  obtain ⟨t, done, alike⟩ :=
    wStage_execEcall (v := s) (arch2.trans same) (inW ▸ valid) (inW ▸ untagged) (inW ▸ ecall)
  exact ⟨t2, t3, t, step2, step3, done, arch3.trans alike⟩

/-- Settles O60: E computes what the atomic Execute does (`exec_executeInstr`), and M and W finish it as the atomic engine does;
an ECALL works in W alone. -/
theorem pipelineRunsInstruction : Obligations.PipelineRunsInstruction := by
  intro s i mode ended hold unbroken noD noM noW valid pc holds untagged operandA operandB
  have running : RunsAt s.pc s := ⟨mode, ended, hold, unbroken⟩
  obtain ⟨t1, step1, same1, inM, noE1, noW1⟩ := execute_cycle running noD noM noW
  have running1 : RunsAt s.pc t1 := running.of_architecture_eq same1
  have executed : t1.ml = latchExecuted (passExecute s.el) (executeInstr s.cfg i s.el.a s.el.b s.el.pc) := by
    rw [inM, eStage_active _ _ valid untagged, holds]; rfl
  have valid1 : t1.ml.valid = true := by rw [executed, latchExecuted_valid]; exact valid
  have pc1 : t1.ml.pc = s.pc := by rw [executed, latchExecuted_pc]; exact pc
  have sub1 : t1.ml.d.sub = .instr i := by rw [executed, latchExecuted_d]; exact holds
  have later : ∃ t2 t3 t, step t1 = .next t2 ∧ step t2 = .next t3 ∧ exec i s = .next t ∧
      t3.architecture = t.architecture := by
    by_cases isEcall : i = .ecall
    · subst isEcall
      have untagged1 : t1.ml.exc = none := by rw [executed]; exact untagged
      exact ecall_cycles same1 running1 noE1 noW1 valid1 untagged1 pc1 sub1
    · refine memory_and_writeback_cycles same1 running1 noE1 noW1 valid1 pc1 ?_ ?_
      · rw [sub1, isEcall_eq_false isEcall]
      · have atomic : exec i s = finish (executeInstr s.cfg i s.el.a s.el.b s.el.pc) (i.destField.getD 0) s := by
          rw [operandA, operandB, pc]
          exact exec_executeInstr i s isEcall
        have cfg1 : t1.cfg = s.cfg := agree_of_architecture_eq State.cfg same1
        have mem1 : t1.mem = s.mem := agree_of_architecture_eq State.mem same1
        rw [sub1, dest_getD, atomic, cfg1, mem1, executed]
        exact mStage_finish (executeInstr_fits _ _ _ _ _) valid untagged holds s
  obtain ⟨t2, t3, t, step2, step3, done, alike⟩ := later
  exact ⟨t1, t2, t3, t, step1, step2, step3, done, sameArchitecture_of_architecture_eq alike⟩

end Sys2Proof.Machine
end

section
/-! PROOFS. The state as a launch leaves it (10_state.md R33, 70_reset_and_hazards.md R250-R255). -/

namespace Sys2Proof.Machine

/-- x1 and x3 to x31 start at their draws (10_state.md R33). -/
theorem State.initial_reg_draw (c : Config) (m : Memory) (bps : List Breakpoint) (draw : Vector Word 32) {r : Reg}
    (zero : r ≠ 0) (sp : r ≠ 2#5) : (State.initial c m bps draw).reg r = draw.get r.toFin := by
  have slot_zero : 0 ≠ r.toNat := fun h => zero (BitVec.eq_of_toNat_eq h.symm)
  have slot_sp : 2 ≠ r.toNat := fun h => sp (BitVec.eq_of_toNat_eq h.symm)
  rw [State.reg, if_neg zero]
  exact (Vector.getElem_set_ne (by decide : 2 < 32) r.isLt slot_sp).trans
    (Vector.getElem_set_ne (by decide : 0 < 32) r.isLt slot_zero)

/-- Settles O39: a launch within the premises happens and leaves `State.initial`. -/
theorem launchState : Obligations.LaunchState := by
  intro c m bps draw okc okm
  refine ⟨State.initial c m bps draw, (launch_next_iff ..).2 ⟨okc, okm, rfl⟩, ?_⟩
  refine ⟨rfl, State.initial_reg_sp c m bps draw, fun r => State.initial_reg_draw c m bps draw, ?_⟩
  exact ⟨rfl, rfl, rfl, rfl, rfl, rfl, rfl, rfl, rfl, rfl, rfl, rfl, rfl, rfl, rfl, rfl, rfl, rfl⟩

/-- `State.reset` is what a launch of the default configuration with no image leaves. -/
theorem launch_default_eq_reset : launch Config.default Memory.empty [] (Vector.replicate 32 0) = .next State.reset :=
  (launch_next_iff ..).2 ⟨by decide, Memory.wf_empty _, rfl⟩

/-- Settles O41: `State.reset` is a launch (`invariantsAtLaunch`), and without an image there is no draw. -/
theorem invariantsAtReset : Obligations.InvariantsAtReset := by
  obtain ⟨memory, heap, stack, zero, barrier, records, draws⟩ := invariantsAtLaunch _ _ _ _ _ launch_default_eq_reset
  exact ⟨memory, heap, stack, zero, draws List.nodup_nil, barrier, records⟩

end Sys2Proof.Machine
end

section
/-! PROOFS. What every step of either engine does to the registers, HEAP, ICOUNT and the console streams, said once
(10_state.md R20, R22, R30, 45_system.md R201, R208, 70_reset_and_hazards.md R282), and the statements that follow. -/

namespace Sys2Proof.Machine

/-! ### The registers a state holds -/

theorem State.reg_eq_of_regs_eq {s t : State} (h : t.regs = s.regs) (q : Reg) : t.reg q = s.reg q := by
  rw [State.reg, State.reg, h]

/-- A register write reads of the state its registers alone. -/
theorem State.setReg_regs_congr {s t : State} (h : t.regs = s.regs) (r : Reg) (v : Word) :
    (t.setReg r v).regs = (s.setReg r v).regs := by
  unfold State.setReg
  split
  · exact h
  · dsimp only; rw [h]

/-- No register write reaches the slot of x0 (10_state.md R20). -/
theorem State.setReg_slot_zero (s : State) (r : Reg) (v : Word) : (s.setReg r v).regs.get 0 = s.regs.get 0 := by
  unfold State.setReg
  split
  · rfl
  · rename_i nonzero
    exact Vector.getElem_set_ne r.isLt (by decide) fun h => nonzero (BitVec.eq_of_toNat_eq h)

/-- A commit writes its register and allocates memory, nothing else (40_execution_step.md R99). -/
theorem commit_regs {r : Reg} {v : Word} {s t : State} (h : commit r v s = .ok t) : t.regs = (s.setReg r v).regs := by
  obtain ⟨rfl, rfl⟩ | ⟨-, -, -, rfl⟩ | ⟨-, -, rfl⟩ := commit_ok_cases h
  · rfl
  · exact State.setReg_regs_congr (State.alloc_regs ..) r v
  · rfl

/-! ### The effect of a step -/

/-- What the state `t` that a step from `s` leaves has of `s`, memory and latches apart: the configuration and the
breakpoint table; the output, perhaps longer, and the input, perhaps shorter; HEAP, or a break that SBRK admits
(45_system.md R208); and the registers, with nothing counted, or one register that the stack rule (40_execution_step.md
R99) lets be written, with one instruction counted. A write to x0 is the count of an instruction that writes none. -/
structure StepEffect (s t : State) : Prop where
  cfg         : t.cfg = s.cfg
  breakpoints : t.breakpoints = s.breakpoints
  output      : s.output <+: t.output
  input       : t.input <:+ s.input
  heap        : t.heap = s.heap ∨ s.cfg.heapBase.toNat ≤ t.heap.toNat ∧ t.heap.toNat ≤ s.cfg.heapMax.toNat
  regs        : (t.regs = s.regs ∧ t.icount = s.icount) ∨
    ∃ r v, (r = spReg → s.cfg.heapMax ≤ v ∧ v ≤ s.cfg.maxAddr) ∧ t.regs = (s.setReg r v).regs ∧
      t.icount = s.icount + 1

namespace StepEffect

theorem refl (s : State) : StepEffect s s :=
  ⟨rfl, rfl, ⟨[], List.append_nil _⟩, List.suffix_rfl, .inl rfl, .inl ⟨rfl, rfl⟩⟩

section
variable {s t : State} (h : StepEffect s t)
include h

theorem holdForInput : StepEffect s t.holdForInput := { h with }

theorem raise (e : StopReason) (p : Word) : StepEffect s (t.raise e p) := { h with }

theorem setMem (m : Memory) : StepEffect s (t.setMem m) := { h with }

theorem emit (bs : List Byte) : StepEffect s (t.emit bs) :=
  { h with output := h.output.trans ⟨bs, rfl⟩ }

/-- Program counters, CYCLES, the resumption mark and the latches play no part. -/
theorem of_architecture_eq {u : State} (same : u.architecture = t.architecture) : StepEffect s u := by
  have shown : StepEffect s t.architecture := { h with }
  rw [← same] at shown
  exact { shown with }

/-- A commit, counted, after something that left the registers and ICOUNT alone. -/
theorem commit_count {r : Reg} {v : Word} {u : State} (regs : t.regs = s.regs) (icount : t.icount = s.icount)
    (c : commit r v t = .ok u) : StepEffect s u.count where
  cfg := (commit_cfg c).trans h.cfg
  breakpoints := (commit_breakpoints c).trans h.breakpoints
  output := by rw [State.count_output, commit_output c]; exact h.output
  input := by rw [State.count_input, commit_input c]; exact h.input
  heap := by rw [State.count_heap, commit_heap c]; exact h.heap
  regs := by
    refine .inr ⟨r, v, ?_, ?_, ?_⟩
    · rintro rfl
      rw [← h.cfg]
      obtain ⟨zero, -⟩ | ⟨-, low, high, -⟩ | ⟨-, other, -⟩ := commit_ok_cases c
      · exact absurd zero (by decide)
      · exact ⟨low, high⟩
      · exact absurd rfl other
    · rw [State.count_regs, commit_regs c, State.setReg_regs_congr regs]
    · rw [State.count_icount, commit_icount c, icount]

end

/-- A commit of the state itself, counted. -/
theorem of_commit {r : Reg} {v : Word} {s u : State} (c : commit r v s = .ok u) : StepEffect s u.count :=
  (refl s).commit_count rfl rfl c

/-- An instruction that writes no register, counted. -/
theorem count (s : State) : StepEffect s s.count := of_commit (r := 0) (v := 0) rfl

end StepEffect

/-! ### ECALL -/

/-- The break SBRK leaves is the one it computed, which the bounds keep below 2^64 (45_system.md R208). -/
theorem toNat_ofInt_of_le {n : Int} {lo hi : Word} (low : (lo.toNat : Int) ≤ n) (high : n ≤ (hi.toNat : Int)) :
    ((BitVec.ofInt 64 n).toNat : Int) = n := by
  have bound := hi.isLt
  rw [BitVec.toNat_ofInt]
  omega

/-- A service that is done has this effect, before its result is committed (45_system.md R203-R211). -/
theorem runService_effect {v : Service} {arg res : Word} {s t : State} (h : runService v arg s = .done res t) :
    StepEffect s t := by
  obtain ⟨cfg, regs, -, -, -, -, icount, -, breakpoints, -⟩ := runService_done h
  cases v with
  | printInt => cases h; exact (StepEffect.refl s).emit _
  | printChar => cases h; exact (StepEffect.refl s).emit _
  | printString =>
    simp only [runService, servicePrintString] at h
    split at h <;> cases h
    exact (StepEffect.refl s).emit _
  | readInt =>
    simp only [runService, serviceReadInt] at h
    split at h <;> cases h
    rename_i read
    exact { StepEffect.refl s with input := read ▸ List.suffix_cons _ _ }
  | readChar =>
    simp only [runService, serviceReadChar] at h
    split at h <;> cases h
    rename_i read
    exact { StepEffect.refl s with input := read ▸ List.suffix_cons _ _ }
  | sbrk =>
    simp only [runService, serviceSbrk] at h
    split at h <;> cases h
    rename_i bounds
    have low := Int.not_lt.1 fun c => bounds (.inr c)
    have high := Int.not_lt.1 fun c => bounds (.inl c)
    have break_eq := toNat_ofInt_of_le low high
    exact {
      cfg, breakpoints
      output := by simp
      input := by simp
      heap := .inr ⟨by dsimp only; omega, by dsimp only; omega⟩
      regs := .inl ⟨regs, icount⟩ }
  | heapBaseQ => cases h; exact StepEffect.refl s
  | heapMaxQ => cases h; exact StepEffect.refl s
  | exit => cases h; exact { StepEffect.refl s with }

/-- However an ECALL ends (45_system.md R200). -/
theorem ecallEffect_leaves_effect (p : Word) (s : State) : StepEffect s ((ecallEffect s).leaves p s) := by
  cases h : ecallEffect s with
  | holds => exact (StepEffect.refl s).holdForInput
  | stops e out => exact ((StepEffect.refl s).emit out).raise e p
  | done res t =>
    obtain ⟨v, u, w, -, served, committed, rfl⟩ := ecallEffect_done h
    obtain ⟨-, regs, -, -, -, -, icount, -⟩ := runService_done served
    have effect := (runService_effect served).commit_count regs icount committed
    show StepEffect s (State.count _)
    split
    · exact { effect with }
    · exact effect

/-! ### The atomic engine -/

/-- The outcome `o` is a next state, with the effect of a step from `s`. -/
def Answers (s : State) (o : StepOutcome) : Prop := ∃ t, o = .next t ∧ StepEffect s t

/-- Every instruction but ECALL (40_execution_step.md R95, R100, R101). -/
theorem finish_answers (x : Executed) (rd : Reg) (s : State) : Answers s (finish x rd s) := by
  obtain ⟨v, npc, t, committed, h⟩ | ⟨k, ea, data, m, -, h⟩ | ⟨npc, h⟩ | ⟨e, h⟩ := finish_cases x rd s
  · exact ⟨_, h, (StepEffect.of_commit committed).of_architecture_eq rfl⟩
  · exact ⟨_, h, ((StepEffect.count s).setMem m).of_architecture_eq rfl⟩
  · exact ⟨_, h, (StepEffect.count s).of_architecture_eq rfl⟩
  · exact ⟨_, h, (StepEffect.refl s).raise e s.pc⟩

theorem exec_answers (i : Instr) (s : State) : Answers s (exec i s) := by
  by_cases ecall : i = .ecall
  · subst ecall
    obtain ⟨t, done, leaves⟩ := execEcall_leaves s
    exact ⟨t, done, (ecallEffect_leaves_effect s.pc s).of_architecture_eq leaves⟩
  · obtain ⟨x, rd, h⟩ := exec_finish i s ecall
    rw [h]
    exact finish_answers x rd s

theorem atomicStep_answers (s : State) : Answers s (atomicStep s) := by
  unfold atomicStep
  split
  · rename_i e _
    exact ⟨_, rfl, (StepEffect.refl s).raise e s.pc⟩
  · rename_i w _
    cases decode w with
    | instr i => exact exec_answers i s
    | unimplemented => exact finish_answers .nothing 0 s
    | nothing => exact finish_answers .nothing 0 s

/-! ### The pipelined engine -/

theorem eq_ecall_of_isEcall {d : Decoded} (h : d.isEcall = true) : d = .instr .ecall := by
  unfold Decoded.isEcall at h
  split at h
  · rfl
  · cases h

/-- However W ends, it has done what one instruction does (70_reset_and_hazards.md R259). -/
theorem wStage_leaves_effect (p : Word) (s : State) : StepEffect s ((wStage s).leaves p s) := by
  cases valid : s.wl.valid with
  | false => rw [wStage_invalid valid]; exact StepEffect.refl s
  | true =>
    cases tag : s.wl.exc with
    | some e => rw [wStage_tagged valid tag]; exact (StepEffect.refl s).raise e p
    | none =>
      cases ecall : s.wl.d.sub.isEcall with
      | true =>
        rw [wStage_ecall valid tag (eq_ecall_of_isEcall ecall)]
        exact ecallEffect_leaves_effect p s
      | false =>
        rw [wStage_of_commit valid tag ecall]
        cases committed : commit (s.wl.d.sub.dest.getD 0) s.wl.value s with
        | error e => exact (StepEffect.refl s).raise e p
        | ok t => exact StepEffect.of_commit committed

/-- M and the tick after W change memory, STOP, CYCLES and the latches alone (70_reset_and_hazards.md R258). -/
theorem cycle_answers (s : State) : Answers s (cycle s) := by
  have w := wStage_leaves_effect s.wl.pc s
  obtain ⟨hw, h⟩ | ⟨e, t, hw, h⟩ | ⟨t, hw, h⟩ | ⟨t, b, e, hw, -, h⟩ | ⟨t, b, r, hw, -, h⟩ := cycle_cases s <;>
    rw [hw] at w
  · exact ⟨_, h, w⟩
  · exact ⟨_, h, w.of_architecture_eq rfl⟩
  · exact ⟨_, h, w.of_architecture_eq rfl⟩
  · exact ⟨_, h, (StepEffect.raise w e s.ml.pc).of_architecture_eq rfl⟩
  · exact ⟨_, h, (StepEffect.setMem w r.mem).of_architecture_eq rfl⟩

/-! ### Every step -/

theorem engineStep_answers (s : State) : Answers s (engineStep s) := by
  unfold engineStep
  cases s.cfg.mode with
  | atomic => exact atomicStep_answers s
  | pipelined => exact cycle_answers s

/-- Every step has a next state, and this effect. -/
theorem step_answers (s : State) : Answers s (step s) := by
  obtain ⟨-, performed⟩ | ⟨-, idle | paused⟩ := step_cases s
  · obtain ⟨t, h, effect⟩ := engineStep_answers s
    exact ⟨t.endResume, by rw [performed, h, afterStep], effect.of_architecture_eq rfl⟩
  · exact ⟨s, idle, StepEffect.refl s⟩
  · exact ⟨s.pause, paused, (StepEffect.refl s).of_architecture_eq rfl⟩

theorem step_effect {s t : State} (h : step s = .next t) : StepEffect s t := by
  obtain ⟨u, hu, effect⟩ := step_answers s
  rw [h] at hu
  cases hu
  exact effect

/-! ### The statements -/

section
variable {s t : State} (h : StepEffect s t)
include h

theorem StepEffect.heapInv (inv : s.heapInv = true) : t.heapInv = true := by
  simp only [State.heapInv, Bool.and_eq_true, decide_eq_true_eq] at inv ⊢
  rw [h.cfg]
  rcases h.heap with same | bounds
  · rw [same]; exact inv
  · exact bounds

/-- x2 is as it was, or has a value the stack rule admits (40_execution_step.md R99). -/
theorem StepEffect.stackInv (inv : s.stackInv = true) : t.stackInv = true := by
  simp only [State.stackInv, Bool.and_eq_true, decide_eq_true_eq] at inv ⊢
  rw [h.cfg]
  obtain ⟨regs, -⟩ | ⟨r, v, bounds, regs, -⟩ := h.regs
  · rw [State.reg_eq_of_regs_eq regs]; exact inv
  · rw [State.reg_eq_of_regs_eq regs]
    by_cases sp : r = 2#5
    · subst sp
      rw [State.setReg_reg_self, if_neg (by decide)]
      exact bounds rfl
    · rw [State.setReg_reg_other _ _ _ _ (Ne.symm sp)]
      exact inv

theorem StepEffect.zeroInv (inv : s.zeroInv = true) : t.zeroInv = true := by
  have slot : t.regs.get 0 = s.regs.get 0 := by
    obtain ⟨regs, -⟩ | ⟨r, v, -, regs, -⟩ := h.regs
    · rw [regs]
    · rw [regs, State.setReg_slot_zero]
  rw [State.zeroInv, slot]
  exact inv

end

/-- Settles O44: HEAP moves within its bounds, x2 by the stack rule, and slot 0 is never written. -/
theorem stepKeepsBounds : Obligations.StepKeepsBounds := fun _ _ h =>
  ⟨(step_effect h).heapInv, (step_effect h).stackInv, (step_effect h).zeroInv⟩

/-- Settles O47: `step_answers` without what it says of HEAP and the registers. -/
theorem stepIsTotalAndMonotone : Obligations.StepIsTotalAndMonotone := by
  intro s
  obtain ⟨t, h, effect⟩ := step_answers s
  refine ⟨t, h, effect.cfg, effect.breakpoints, effect.output, effect.input, ?_⟩
  obtain ⟨-, icount⟩ | ⟨-, -, -, -, icount⟩ := effect.regs
  · exact .inl icount
  · exact .inr icount

/-- Settles O48: the registers are as they were, or one was written and its instruction counted. -/
theorem stepWritesAtMostOneRegister : Obligations.StepWritesAtMostOneRegister := by
  intro s t h
  obtain ⟨regs, -⟩ | ⟨r, v, -, regs, icount⟩ := (step_effect h).regs
  · have kept := State.reg_eq_of_regs_eq regs
    exact ⟨⟨0, fun q _ => kept q⟩, rfl, fun ⟨r, written⟩ => absurd (kept r) written⟩
  · refine ⟨⟨r, fun q other => ?_⟩, rfl, fun _ => icount⟩
    rw [State.reg_eq_of_regs_eq regs, State.setReg_reg_other _ _ _ _ other]

end Sys2Proof.Machine
end

section
/-! PROOFS. The memory accesses (20_memory.md R44-R48, R58, 43_loads_stores.md R172): when each is done and what it gives or
leaves. -/

namespace Sys2Proof.Machine

/-! ### The access check (R45) -/

theorem byteAllowed_fetch (c : Config) (m : Memory) (a : Nat) : byteAllowed c m .fetch a = fetchableByte c m a := by
  unfold byteAllowed fetchableByte
  cases walk c m a <;> rfl

theorem byteAllowed_write (s : State) (a : Nat) : byteAllowed s.cfg s.mem .write a = writableByte s a := by
  unfold byteAllowed writableByte
  cases walk s.cfg s.mem a <;> rfl

/-- A byte that may be accessed lies in a present page. -/
theorem walk_isSome_of_byteAllowed {c : Config} {m : Memory} {k : AccessKind} {a : Nat}
    (h : byteAllowed c m k a = true) : (walk c m a).isSome = true := by
  cases found : walk c m a with
  | some p => rfl
  | none => simp [byteAllowed, found] at h

/-- A byte that may be written may be read: every present page is readable (R40). -/
theorem byteAllowed_read_of_write {c : Config} {m : Memory} {a : Nat} (h : byteAllowed c m .write a = true) :
    byteAllowed c m .read a = true := by
  cases found : walk c m a with
  | some p =>
    rw [byteAllowed, found, Bool.and_eq_true] at h ⊢
    exact ⟨h.1, rfl⟩
  | none => simp [byteAllowed, found] at h

/-- The check looks at pages alone. -/
theorem byteAllowed_congr {c : Config} {m m' : Memory} {a : Nat} (same : walk c m' a = walk c m a) (k : AccessKind) :
    byteAllowed c m' k a = byteAllowed c m k a := by
  rw [byteAllowed, byteAllowed, same]

theorem firstFault_congr {c : Config} {m m' : Memory} (same : ∀ a, walk c m' a = walk c m a) (k : AccessKind) (a n : Nat) :
    firstFault c m' k a n = firstFault c m k a n := by
  induction n generalizing a with
  | zero => rfl
  | succ n ih => rw [firstFault, firstFault, byteAllowed_congr (same a), ih]

/-- Every byte of a write that is done was allowed (R45, R47). -/
theorem memWrite_ok {c : Config} {m m' : Memory} {a : Word} {n : Nat} {v : Word} (h : memWrite c m a n v = .ok m') :
    (∀ i, i < n → byteAllowed c m .write (a.toNat + i) = true) ∧ m' = writeLE c m a.toNat n v := by
  unfold memWrite at h
  split at h
  · cases h
  · rename_i allowed
    cases h
    exact ⟨(firstFault_eq_none c m .write a.toNat n).1 allowed, rfl⟩

theorem memWrite_of_allowed {c : Config} {m : Memory} {a : Word} {n : Nat} (v : Word)
    (h : ∀ i, i < n → byteAllowed c m .write (a.toNat + i) = true) :
    memWrite c m a n v = .ok (writeLE c m a.toNat n v) := by
  simp only [memWrite, (firstFault_eq_none c m .write a.toNat n).2 h]

/-- The lowest byte that may not be written is the one a write names (R45). -/
theorem memWrite_of_fault {c : Config} {m : Memory} {a : Word} {n k : Nat} (v : Word) (inside : k < n)
    (fault : byteAllowed c m .write (a.toNat + k) = false)
    (lower : ∀ j, j < k → byteAllowed c m .write (a.toNat + j) = true) :
    memWrite c m a n v = .error (.memoryFault .write (BitVec.ofNat 64 (a.toNat + k))) := by
  simp only [memWrite, (firstFault_eq_some c m .write a.toNat n (a.toNat + k)).2 ⟨k, inside, rfl, fault, lower⟩]

/-! ### Little-endian values (R44) -/

/-- A value is its bytes: the low `n` bytes of `v`, read little end first. -/
theorem readLE_of_bytes {c : Config} {m : Memory} {a n : Nat} {v : Word}
    (bytes : ∀ k, k < n → byteAt c m (a + k) = some (v.extractLsb' (8 * k) 8)) :
    readLE c m a n = v.toNat % 2 ^ (8 * n) := by
  induction n generalizing a v with
  | zero => simp [readLE, Nat.mod_one]
  | succ n ih =>
    have low : byteAt c m a = some (v.extractLsb' 0 8) := bytes 0 (Nat.succ_pos n)
    have rest : readLE c m (a + 1) n = (v >>> 8).toNat % 2 ^ (8 * n) := by
      refine ih fun k lt => ?_
      rw [Nat.add_right_comm, Nat.add_assoc, bytes (k + 1) (Nat.succ_lt_succ lt)]
      congr 1
      ext i hi
      simp only [BitVec.getElem_extractLsb', BitVec.getLsbD_ushiftRight]
      congr 1
      omega
    rw [readLE, low, rest, Nat.mul_succ, Nat.pow_add, Nat.mul_comm (2 ^ (8 * n)), Nat.mod_mul]
    simp [BitVec.toNat_ushiftRight, Nat.shiftRight_eq_div_pow]

theorem readLE_congr {c : Config} {m m' : Memory} {a n : Nat} (same : ∀ i, i < n → byteAt c m' (a + i) = byteAt c m (a + i)) :
    readLE c m' a n = readLE c m a n := by
  induction n generalizing a with
  | zero => rfl
  | succ n ih =>
    have rest : readLE c m' (a + 1) n = readLE c m (a + 1) n := ih fun i lt => by
      rw [Nat.add_right_comm, Nat.add_assoc]; exact same (i + 1) (Nat.succ_lt_succ lt)
    rw [readLE, readLE, rest, show byteAt c m' a = byteAt c m a from same 0 (Nat.succ_pos n)]

/-- Bytes put together, the last the lowest. -/
theorem toNat_append_byte {w : Nat} (x : BitVec w) (y : Byte) : (x ++ y).toNat = y.toNat + 256 * x.toNat := by
  rw [BitVec.toNat_append, ← Nat.shiftLeft_add_eq_or_of_lt y.isLt, Nat.shiftLeft_eq]
  omega

/-- The four bytes of a word, little end first. -/
theorem readLE_four (c : Config) (m : Memory) (a : Nat) :
    BitVec.ofNat 32 (readLE c m a 4) = (byteAt c m (a + 3)).getD 0 ++ (byteAt c m (a + 2)).getD 0 ++
      (byteAt c m (a + 1)).getD 0 ++ (byteAt c m a).getD 0 := by
  apply BitVec.eq_of_toNat_eq
  rw [BitVec.toNat_ofNat, ← Nat.mod_eq_of_lt (BitVec.isLt (_ ++ _ ++ _ ++ _))]
  simp [readLE, toNat_append_byte]

/-! ### Fetch (R48) -/

/-- The bytes of an aligned word lie in one page, where PAGE is a multiple of 4. -/
theorem pageBase_of_aligned {c : Config} {a k : Nat} (aligned : a % 4 = 0) (four : 2 ≤ c.pageBits) (lt : k < 4) :
    pageBase c (a + k) = pageBase c a := by
  obtain ⟨q, size⟩ : 4 ∣ pageSize c := Nat.pow_dvd_pow 2 four
  have inPage : a % pageSize c < pageSize c := Nat.mod_lt _ (Nat.two_pow_pos _)
  have offset : a % pageSize c % 4 = 0 := by rw [Nat.mod_mod_of_dvd _ ⟨q, size⟩, aligned]
  have same : (a + k) % pageSize c = a % pageSize c + k := by
    rw [Nat.add_mod, Nat.add_mod_mod, Nat.mod_eq_of_lt]
    omega
  rw [pageBase, pageBase, same]
  omega

/-- A step whose fetch stops changes STOP alone, and ends a resumption (40_execution_step.md R96). -/
theorem step_of_fetch_error {s : State} {e : StopReason} (mode : s.cfg.mode = .atomic) (running : s.runs = true)
    (h : memFetch s.cfg s.mem s.pc = .error e) : step s = .next { stopped s e with resuming := false } := by
  obtain ⟨-, performed⟩ | ⟨idle, -⟩ := step_cases s
  · have notHeld : s.hold = false := by
      simp only [State.runs, Bool.and_eq_true, Bool.not_eq_true'] at running
      exact running.1.2
    rw [performed, engineStep, mode]
    simp [atomicStep, h, afterStep, State.endResume, State.raise, stopped, notHeld]
  · rw [running] at idle; cases idle

/-- Settles O9: the check is `firstFault` over the four bytes. -/
theorem fetchRule : Obligations.FetchRule := by
  refine ⟨fun c m a => ⟨?misaligned, ?faults, ?gives, ?onePage⟩, fun s e mode running => step_of_fetch_error mode running⟩
  case misaligned => exact fun odd => if_pos odd
  case faults =>
    intro aligned k lt fault lower
    simp only [← byteAllowed_fetch] at fault lower
    have first := (firstFault_eq_some c m .fetch a.toNat 4 _).2 ⟨k, lt, rfl, fault, lower⟩
    simp [memFetch, aligned, first]
  case gives =>
    intro aligned allowed
    simp only [← byteAllowed_fetch] at allowed
    have noFault := (firstFault_eq_none c m .fetch a.toNat 4).2 allowed
    rw [← readLE_four]
    simp [memFetch, aligned, noFault]
  case onePage => exact fun aligned four k lt => pageBase_of_aligned aligned four lt

/-! ### Read after write (R58) -/

/-- Settles O26: the bytes written are allowed to be read and are those of the value; no other byte changes, and no page. -/
theorem readAfterWrite : Obligations.ReadAfterWrite := by
  intro c m m' a n v _ written
  obtain ⟨allowed, rfl⟩ := memWrite_ok written
  have samePages (b : Nat) := walk_writeLE c m a.toNat n b v
  constructor
  · have noFault : firstFault c m .read a.toNat n = none :=
      (firstFault_eq_none ..).2 fun i lt => byteAllowed_read_of_write (allowed i lt)
    have value := readLE_of_bytes (v := v) fun k lt =>
      byteAt_writeLE c m a.toNat n k v lt fun i lt => walk_isSome_of_byteAllowed (allowed i lt)
    simp only [memRead, firstFault_congr samePages, noFault, value]
  · intro b k apart
    have value : readLE c (writeLE c m a.toNat n v) b.toNat k = readLE c m b.toNat k :=
      readLE_congr fun i lt => byteAt_writeLE_other _ _ _ _ _ _ (by omega)
    rw [memRead, memRead, firstFault_congr samePages, value]

/-! ### The stores (43_loads_stores.md R172) -/

theorem writable_iff (s : State) (a n : Nat) :
    writable s a n = true ↔ ∀ i, i < n → byteAllowed s.cfg s.mem .write (a + i) = true := by
  simp [writable, byteAllowed_write]

/-- A store whose bytes are writable writes them and nothing else. -/
theorem finishStore_stores {k : StoreKind} {ea : Word} (data : Word) {s : State}
    (h : writable s ea.toNat k.bytes = true) :
    ∃ t, finishStore k ea data s = .next t ∧ StoredTo s ea.toNat k.bytes data t := by
  have allowed := (writable_iff ..).1 h
  refine ⟨(s.setMem (writeLE s.cfg s.mem ea.toNat k.bytes data)).retire (nextPc s), ?_, ?_⟩
  · rw [finishStore, memWrite_of_allowed data allowed]
  · exact {
      stored := fun i lt => byteAt_writeLE _ _ _ _ _ _ lt fun j lt => walk_isSome_of_byteAllowed (allowed j lt)
      elsewhere := fun b apart => byteAt_writeLE_other _ _ _ _ _ _ (by
        by_contra inside
        exact apart (b - ea.toNat) (by omega) (by omega))
      pages := ⟨writeLE_pages .., rfl⟩
      regs := fun _ => rfl
      counted := ⟨rfl, rfl⟩
      engine := ⟨rfl, rfl, rfl, rfl, rfl, rfl, rfl⟩
      untouched := ⟨rfl, rfl, rfl, rfl, rfl, rfl, rfl, rfl, rfl⟩ }

/-- A store with an unwritable byte stops at the lowest one and does nothing else. -/
theorem finishStore_faults {k : StoreKind} {ea : Word} (data : Word) {s : State} {i : Nat}
    (lower : writable s ea.toNat i = true) (fault : writableByte s (ea.toNat + i) = false) (inside : i < k.bytes) :
    finishStore k ea data s = .next (stopped s (.memoryFault .write (BitVec.ofNat 64 (ea.toNat + i)))) := by
  rw [← byteAllowed_write] at fault
  rw [finishStore, memWrite_of_fault data inside fault ((writable_iff ..).1 lower)]
  rfl

/-- Settles O23: each store is `finishStore` at its address. -/
theorem storeDataPath : Obligations.StoreDataPath := by
  intro s rs1 rs2 imm a
  refine ⟨finishStore_stores (k := .sb) _, finishStore_stores (k := .sh) _, finishStore_stores (k := .sw) _,
    finishStore_stores (k := .sd) _, fun i lower fault => ⟨?_, ?_, ?_, ?_⟩⟩
  · exact finishStore_faults (k := .sb) _ lower fault
  · exact finishStore_faults (k := .sh) _ lower fault
  · exact finishStore_faults (k := .sw) _ lower fault
  · exact finishStore_faults (k := .sd) _ lower fault

end Sys2Proof.Machine
end

section
/-! PROOFS. Page allocation (20_memory.md R49) and the register commit (40_execution_step.md R99). -/

namespace Sys2Proof.Machine

/-! ### Alloc -/

/-- Alloc does nothing, or puts an absent page below MAXADDR into the table. -/
theorem State.alloc_cases (s : State) (b : Nat) (w x : Bool) :
    s.alloc b w x = s ∨ b < s.cfg.maxAddr.toNat ∧ findPage s.mem.pages b = none ∧
      s.alloc b w x = { s with
        mem := { s.mem with pages := insertPage s.mem.pages ⟨b, w, x, s.newFill⟩ }, draws := s.draws + 1 } := by
  unfold State.alloc
  split
  · rename_i below
    split
    · exact .inl rfl
    · rename_i absent
      exact .inr ⟨below, absent, rfl⟩
  · exact .inl rfl

theorem mem_of_cellAt_eq_some {cs : List Host.Cell} {a : Nat} {v : Byte} (h : cellAt cs a = some v) : (a, v) ∈ cs := by
  induction cs with
  | nil => cases h
  | cons cell cs ih =>
    rw [cellAt] at h
    split at h
    · rename_i here
      cases h
      exact here ▸ List.mem_cons_self
    · exact List.mem_cons_of_mem _ (ih h)

/-- In the canonical form an absent page has no listed byte (log 5). -/
theorem cellAt_eq_none_of_absent {c : Config} {m : Memory} {a : Nat} (inv : m.wf c = true) (absent : walk c m a = none) :
    cellAt m.cells a = none := by
  cases listed : cellAt m.cells a with
  | none => rfl
  | some v =>
    obtain ⟨-, -, -, cells⟩ := (Memory.wf_iff c m).1 inv
    have ok := cells _ (mem_of_cellAt_eq_some listed)
    rw [cellOk, absent] at ok
    cases ok

/-- Every byte of a created page is what its fill says (R49). -/
theorem State.alloc_byteAt_created {s : State} {b : Nat} (w x : Bool) {a : Nat} (inv : s.mem.wf s.cfg = true)
    (below : b < s.cfg.maxAddr.toNat) (absent : findPage s.mem.pages b = none) (here : pageBase s.cfg a = b) :
    byteAt s.cfg (s.alloc b w x).mem a = some (unlistedByte ⟨b, w, x, s.newFill⟩ a) := by
  have found : walk s.cfg (s.alloc b w x).mem a = some ⟨b, w, x, s.newFill⟩ := by
    rw [walk, here]; exact s.alloc_created b w x below absent
  have unlisted : cellAt s.mem.cells a = none := cellAt_eq_none_of_absent inv (by rw [walk, here]; exact absent)
  rw [byteAt, found, State.alloc_cells, unlisted]

/-- Settles O25: an absent page below MAXADDR is created, and lookups elsewhere are as before. -/
theorem allocRule : Obligations.AllocRule := by
  intro s p w x
  refine ⟨fun above => s.alloc_nothing p w x (.inl above), fun present => s.alloc_nothing p w x (.inr present), ?_⟩
  intro below absent
  have page := s.alloc_created p w x below absent
  refine ⟨(s.alloc p w x).mem, ?whole, s.alloc_cells p w x, ⟨_, page, rfl, rfl, rfl⟩, ?pages,
    fun a apart => s.alloc_byteAt_other p w x a apart, ?bytes⟩
  case whole =>
    obtain same | ⟨-, -, created⟩ := s.alloc_cases p w x
    · rw [same, absent] at page; cases page
    · rw [created]
  case pages =>
    intro b apart
    obtain same | ⟨-, -, created⟩ := s.alloc_cases p w x
    · rw [same]
    · rw [created]; exact findPage_insertPage_other _ _ _ apart
  case bytes =>
    intro inv a here
    rw [State.alloc_byteAt_created w x inv below absent here, unlistedByte, State.newFill]
    cases s.cfg.newPageFill <;> rfl

/-! ### The commit -/

/-- A commit the stack rule allows is done. -/
theorem commit_of_allowed {s : State} {r : Reg} {v : Word} (h : commitAllowed s r v = true) : ∃ t, commit r v s = .ok t := by
  cases committed : commit r v s with
  | ok t => exact ⟨t, rfl⟩
  | error e =>
    obtain ⟨rfl, outside, -⟩ := commit_error_cases committed
    simp only [commitAllowed, spReg, bne_self_eq_false, Bool.false_or, Bool.and_eq_true, decide_eq_true_eq] at h
    obtain ⟨low, high⟩ := h
    rcases outside with below | above
    · exact absurd low (Nat.not_le.2 below)
    · exact absurd high (Nat.not_le.2 above)

/-- Memory and its draws after a commit: as they were, or as Alloc leaves them for x2. -/
theorem commit_memory {r : Reg} {v : Word} {s t : State} (h : commit r v s = .ok t) :
    (r ≠ 2#5 ∧ t.mem = s.mem ∧ t.draws = s.draws) ∨
    (r = 2#5 ∧ t.mem = (s.alloc (pageBase s.cfg v.toNat) true false).mem ∧
      t.draws = (s.alloc (pageBase s.cfg v.toNat) true false).draws) := by
  obtain ⟨rfl, rfl⟩ | ⟨rfl, -, -, rfl⟩ | ⟨-, other, rfl⟩ := commit_ok_cases h
  · exact .inl ⟨by decide, rfl, rfl⟩
  · exact .inr ⟨rfl, State.setReg_mem .., State.setReg_draws ..⟩
  · exact .inl ⟨other, State.setReg_mem .., State.setReg_draws ..⟩

theorem commit_regsCommitted {r : Reg} {v : Word} {s t : State} (h : commit r v s = .ok t) : RegsCommitted s r v t :=
  ⟨commit_reg_self h, fun _ other => commit_reg_other h other⟩

theorem commit_pagesCommitted {r : Reg} {v : Word} {s t : State} (h : commit r v s = .ok t) : PagesCommitted s r v t := by
  obtain ⟨other, mem, draws⟩ | ⟨rfl, mem, draws⟩ := commit_memory h
  · exact {
      unchanged := fun _ => ⟨mem, draws⟩
      nothing := fun _ => ⟨mem, draws⟩
      bytes := fun a _ => by rw [commit_cfg h, mem]
      present := fun a p found => by rw [commit_cfg h, mem]; exact ⟨found, rfl⟩
      created := fun sp => absurd sp other
      zeroed := fun sp => absurd sp other }
  · exact {
      unchanged := fun other => absurd rfl other
      nothing := fun idle => by
        rw [mem, draws, s.alloc_nothing _ true false idle]
        exact ⟨rfl, rfl⟩
      bytes := fun a apart => by
        rw [commit_cfg h, mem]
        exact s.alloc_byteAt_other _ true false a (apart.resolve_left (absurd rfl))
      present := fun a p found => by
        rw [commit_cfg h, mem]
        exact ⟨s.alloc_walk_present _ true false a p found, s.alloc_byteAt_present _ true false a p found⟩
      created := fun _ absent below => by
        rw [commit_cfg h, mem]
        exact ⟨_, s.alloc_created _ true false below absent, rfl, rfl⟩
      zeroed := fun _ absent below zero inv a here => by
        rw [commit_cfg h, mem, State.alloc_byteAt_created true false inv below absent here, State.newFill, zero]
        rfl }

theorem commit_engineKept {r : Reg} {v : Word} {s t : State} (h : commit r v s = .ok t) : EngineKept s t :=
  ⟨commit_heap h, commit_finished h, commit_exitStatus h, commit_stop h, commit_hold h, commit_output h, commit_input h⟩

theorem commit_untouched {r : Reg} {v : Word} {s t : State} (h : commit r v s = .ok t) : Untouched s t :=
  ⟨commit_cfg h, commit_cycles h, commit_breakpoints h, commit_resuming h, commit_fl h, commit_dl h, commit_el h,
    commit_ml h, commit_wl h⟩

/-- Settles O24: x0 and the stack rule by the definition, an allowed commit by what it does to each part of the state. -/
theorem commitRule : Obligations.CommitRule := by
  intro s r v
  refine ⟨fun zero => if_pos zero, ?stops, fun allowed => ?_⟩
  case stops =>
    rintro rfl outside
    exact if_pos outside
  obtain ⟨t, h⟩ := commit_of_allowed allowed
  exact ⟨t, h, commit_regsCommitted h, commit_pagesCommitted h, commit_pc h, commit_icount h, commit_engineKept h,
    commit_untouched h⟩

end Sys2Proof.Machine
end

section
/-! PROOFS. What every step of either engine does to memory, said once (20_memory.md R43, R45, R47, R49): it creates pages of
x2 or of a growing heap, and it stores where the bytes are writable; and the statements that follow. -/

namespace Sys2Proof.Machine

/-! ### What a checked store can reach -/

/-- The page of a byte that may be written is writable. -/
theorem writable_of_byteAllowed {c : Config} {m : Memory} {a : Nat} {p : Page} (h : byteAllowed c m .write a = true)
    (found : walk c m a = some p) : p.writable = true := by
  rw [byteAllowed, found, Bool.and_eq_true] at h
  exact h.2

/-- No checked write changes a byte of a page that is not writable (20_memory.md R45). -/
theorem byteAt_memWrite_readOnly {c : Config} {m m' : Memory} {a : Word} {n : Nat} {v : Word} {b : Nat} {p : Page}
    (h : memWrite c m a n v = .ok m') (found : walk c m b = some p) (readOnly : p.writable = false) :
    byteAt c m' b = byteAt c m b := by
  obtain ⟨allowed, rfl⟩ := memWrite_ok h
  apply byteAt_writeLE_other
  by_contra inside
  have written := allowed (b - a.toNat) (by omega)
  rw [show a.toNat + (b - a.toNat) = b by omega] at written
  rw [writable_of_byteAllowed written found] at readOnly
  cases readOnly

/-! ### The draws of a page list -/

/-- The draw number of a page, if its contents were drawn (log 4). -/
def Page.drawNumber (p : Page) : Option Nat :=
  match p.fill with
  | .zero => none
  | .drawn n => some n

theorem drawNumbers_eq_filterMap (ps : List Page) : drawNumbers ps = ps.filterMap Page.drawNumber := by
  induction ps with
  | nil => rfl
  | cons p ps ih =>
    rw [drawNumbers, List.filterMap_cons, Page.drawNumber, ih]
    cases p.fill <;> rfl

theorem insertPage_perm {ps : List Page} {p : Page} (absent : findPage ps p.base = none) :
    (insertPage ps p).Perm (p :: ps) := by
  induction ps with
  | nil => rfl
  | cons q qs ih =>
    rw [findPage] at absent
    split at absent
    · cases absent
    · rename_i other
      rw [insertPage, if_neg (Ne.symm other)]
      split
      · rfl
      · exact ((ih absent).cons q).trans (.swap p q qs)

theorem drawNumbers_insertPage_perm {ps : List Page} {p : Page} (absent : findPage ps p.base = none) :
    (drawNumbers (insertPage ps p)).Perm (drawNumbers (p :: ps)) := by
  rw [drawNumbers_eq_filterMap, drawNumbers_eq_filterMap]
  exact (insertPage_perm absent).filterMap _

theorem State.drawsInv_iff (s : State) :
    s.drawsInv = true ↔ (drawNumbers s.mem.pages).Nodup ∧ ∀ n ∈ drawNumbers s.mem.pages, n < s.draws := by
  simp [State.drawsInv]

theorem State.newFill_cases (s : State) : s.newFill = .zero ∨ s.newFill = .drawn s.draws := by
  unfold State.newFill
  split
  · exact .inl rfl
  · exact .inr rfl

/-- A created page takes the counter's number, which no page has (log 4). -/
theorem State.alloc_drawsInv (s : State) (b : Nat) (w x : Bool) (inv : s.drawsInv = true) :
    (s.alloc b w x).drawsInv = true := by
  obtain same | ⟨-, absent, created⟩ := s.alloc_cases b w x
  · rw [same]; exact inv
  · rw [created]
    obtain ⟨own, below⟩ := s.drawsInv_iff.1 inv
    have perm := drawNumbers_insertPage_perm (p := ⟨b, w, x, s.newFill⟩) absent
    refine (State.drawsInv_iff _).2 ?_
    simp only [perm.nodup_iff, perm.mem_iff]
    obtain zero | drawn := s.newFill_cases
    · rw [zero]
      exact ⟨own, fun n listed => Nat.lt_succ_of_lt (below n listed)⟩
    · rw [drawn]
      refine ⟨List.nodup_cons.2 ⟨fun taken => lt_irrefl _ (below _ taken), own⟩, fun n listed => ?_⟩
      obtain rfl | listed := List.mem_cons.1 listed
      · exact Nat.lt_succ_self _
      · exact Nat.lt_succ_of_lt (below n listed)

/-! ### What a sequence of operations does to memory -/

/-- `t` has the memory that allocations of pages which `new` admits, and checked stores, make of that of `s`. -/
inductive MemoryChanges (new : Nat → Prop) (s : State) : State → Prop where
  | refl : MemoryChanges new s s
  | alloc {t : State} {b : Nat} (before : MemoryChanges new s t) (admitted : new b) (aligned : b % pageSize s.cfg = 0) :
      MemoryChanges new s (t.alloc b true false)
  | store {t : State} {a : Word} {n : Nat} {v : Word} {m : Memory} (before : MemoryChanges new s t)
      (written : memWrite s.cfg t.mem a n v = .ok m) : MemoryChanges new s (t.setMem m)
  | elsewhere {t u : State} (before : MemoryChanges new s t) (cfg : u.cfg = t.cfg) (mem : u.mem = t.mem)
      (draws : u.draws = t.draws) : MemoryChanges new s u

namespace MemoryChanges

section
variable {new : Nat → Prop} {s t : State} (h : MemoryChanges new s t)
include h

theorem cfg : t.cfg = s.cfg := by
  induction h with
  | refl => rfl
  | alloc _ _ _ ih => rw [State.alloc_cfg, ih]
  | store _ _ ih => exact ih
  | elsewhere _ cfg _ _ ih => rw [cfg, ih]

theorem mono {new' : Nat → Prop} (admits : ∀ b, new b → new' b) : MemoryChanges new' s t := by
  induction h with
  | refl => exact .refl
  | alloc _ admitted aligned ih => exact ih.alloc (admits _ admitted) aligned
  | store _ written ih => exact ih.store written
  | elsewhere _ cfg mem draws ih => exact ih.elsewhere cfg mem draws

theorem wf (inv : s.mem.wf s.cfg = true) : t.mem.wf s.cfg = true := by
  induction h with
  | refl => exact inv
  | alloc before _ aligned ih =>
    rw [← before.cfg] at aligned ih ⊢
    exact State.alloc_wf _ _ true false aligned ih
  | store _ written ih => exact Memory.wf_memWrite _ _ _ _ _ _ ih written
  | elsewhere _ _ mem _ ih => rw [mem]; exact ih

/-- No page is removed or changed (20_memory.md R43). -/
theorem walk_present {a : Nat} {p : Page} (found : walk s.cfg s.mem a = some p) : walk s.cfg t.mem a = some p := by
  induction h with
  | refl => exact found
  | alloc before _ _ ih =>
    rw [← before.cfg] at ih ⊢
    exact State.alloc_walk_present _ _ true false a p ih
  | store _ written ih =>
    obtain ⟨-, rfl⟩ := memWrite_ok written
    rw [State.setMem_mem, walk_writeLE, ih]
  | elsewhere _ _ mem _ ih => rw [mem, ih]

/-- A page that appears was admitted, and is one of a stack or heap (20_memory.md R43, R49). -/
theorem walk_created {a : Nat} {p : Page} (absent : walk s.cfg s.mem a = none) (found : walk s.cfg t.mem a = some p) :
    p.writable = true ∧ p.executable = false ∧ p.base < s.cfg.maxAddr.toNat ∧ new (pageBase s.cfg a) := by
  induction h with
  | refl => rw [absent] at found; cases found
  | @alloc t b before admitted _ ih =>
    obtain same | ⟨below, absent', created⟩ := t.alloc_cases b true false
    · rw [same] at found; exact ih found
    · by_cases here : pageBase s.cfg a = b
      · have found' := State.alloc_created t b true false below absent'
        rw [walk, here, found'] at found
        cases found
        exact ⟨rfl, rfl, before.cfg ▸ below, here ▸ admitted⟩
      · rw [← before.cfg] at here found ih ⊢
        rw [State.alloc_walk_other t b true false a here] at found
        exact ih found
  | store _ written ih =>
    obtain ⟨-, rfl⟩ := memWrite_ok written
    rw [State.setMem_mem, walk_writeLE] at found
    exact ih found
  | elsewhere _ _ mem _ ih => rw [mem] at found; exact ih found

theorem drawsInv (inv : s.drawsInv = true) : t.drawsInv = true := by
  induction h with
  | refl => exact inv
  | alloc _ _ _ ih => exact State.alloc_drawsInv _ _ true false ih
  | store _ written ih =>
    obtain ⟨-, rfl⟩ := memWrite_ok written
    rw [State.drawsInv, State.setMem_mem, writeLE_pages]
    exact ih
  | elsewhere _ _ mem draws ih => rw [State.drawsInv, mem, draws]; exact ih

/-- The bytes of a page that is not writable stay (20_memory.md R45). -/
theorem byteAt_readOnly {a : Nat} {p : Page} (found : walk s.cfg s.mem a = some p) (readOnly : p.writable = false) :
    byteAt s.cfg t.mem a = byteAt s.cfg s.mem a := by
  induction h with
  | refl => rfl
  | alloc before _ _ ih =>
    have present := before.walk_present found
    rw [← ih]
    rw [← before.cfg] at present ⊢
    exact State.alloc_byteAt_present _ _ true false a p present
  | store before written ih => exact (byteAt_memWrite_readOnly written (before.walk_present found) readOnly).trans ih
  | elsewhere _ _ mem _ ih => rw [mem, ih]

/-- Allocation of consecutive pages, all admitted (45_system.md R208). -/
theorem allocPages (n b : Nat) (aligned : b % pageSize s.cfg = 0)
    (admitted : ∀ i, i < n → new (b + i * pageSize s.cfg)) : MemoryChanges new s (State.allocPages n b t) := by
  induction n generalizing b t with
  | zero => exact h
  | succ n ih =>
    have first : new b := by simpa using admitted 0 (Nat.succ_pos n)
    rw [State.allocPages, h.cfg]
    refine ih (h.alloc first aligned) (b + pageSize s.cfg) (by simpa using aligned) fun i lt => ?_
    have next := admitted (i + 1) (Nat.succ_lt_succ lt)
    rwa [Nat.succ_mul, Nat.add_comm (i * _), ← Nat.add_assoc] at next

end

end MemoryChanges

/-! ### Which pages a step may create -/

/-- The break grew, and the page at base `b` meets what it grew over (45_system.md R208). -/
def MeetsNewBreak (s t : State) (b : Nat) : Prop :=
  s.heap.toNat < t.heap.toNat ∧ b < t.heap.toNat ∧ s.heap.toNat < b + pageSize s.cfg

/-- The page at base `b` is that of the value of x2, or the break grew over it (20_memory.md R43). -/
def MayAppear (s t : State) (b : Nat) : Prop :=
  b = pageBase s.cfg (t.reg 2#5).toNat ∨ MeetsNewBreak s t b

/-- The part of a state that says which pages a step may create, and what is in them. -/
def State.memorySide (s : State) : Config × Memory × Nat × Word × Vector Word 32 :=
  (s.cfg, s.mem, s.draws, s.heap, s.regs)

/-- What a step from `s` to `t` does to memory. -/
def MemoryEffect (s t : State) : Prop := MemoryChanges (MayAppear s t) s t

namespace MemoryEffect

theorem refl (s : State) : MemoryEffect s s := MemoryChanges.refl

/-- Nothing else of a state plays a part. -/
theorem of_memorySide_eq {s t u : State} (h : MemoryEffect s t) (same : u.memorySide = t.memorySide) :
    MemoryEffect s u := by
  simp only [State.memorySide, Prod.mk.injEq] at same
  obtain ⟨cfg, mem, draws, heap, regs⟩ := same
  have admits : MayAppear s u = MayAppear s t := by
    funext b
    rw [MayAppear, MayAppear, MeetsNewBreak, MeetsNewBreak, heap, State.reg_eq_of_regs_eq regs]
  rw [MemoryEffect, admits]
  exact h.elsewhere cfg mem draws

theorem of_architecture_eq {s t u : State} (h : MemoryEffect s t) (same : u.architecture = t.architecture) :
    MemoryEffect s u :=
  h.of_memorySide_eq (agree_of_architecture_eq State.memorySide same)

/-- A checked store after it (20_memory.md R47). -/
theorem store {s t : State} {a : Word} {n : Nat} {v : Word} {m : Memory} (h : MemoryEffect s t)
    (written : memWrite t.cfg t.mem a n v = .ok m) : MemoryEffect s (t.setMem m) := by
  rw [MemoryChanges.cfg h] at written
  exact MemoryChanges.store h written

end MemoryEffect

/-- A commit after changes that only a growing break made: it creates the page of x2 at most (40_execution_step.md R99). -/
theorem MemoryChanges.commit {s t u : State} {r : Reg} {v : Word} (h : MemoryChanges (MeetsNewBreak s t) s t)
    (c : commit r v t = .ok u) : MemoryEffect s u := by
  have before : MemoryChanges (MayAppear s u) s t := h.mono fun b met => .inr (by
    rw [MeetsNewBreak, commit_heap c]; exact met)
  obtain ⟨-, mem, draws⟩ | ⟨rfl, mem, draws⟩ := commit_memory c
  · exact before.elsewhere (commit_cfg c) mem draws
  · have page : MayAppear s u (pageBase t.cfg v.toNat) := .inl (by
      rw [commit_reg_self c, if_neg (by decide), h.cfg])
    exact (before.alloc page (h.cfg ▸ pageBase_mod t.cfg v.toNat)).elsewhere ((commit_cfg c).trans (t.alloc_cfg ..).symm)
      mem draws

/-! ### ECALL -/

/-- The pages SBRK allocates meet what the break grows over (45_system.md R208). -/
theorem pagesToCover_meet {c : Config} {old new i : Nat} (lt : i < pagesToCover c old new) :
    old < new ∧ pageBase c old + i * pageSize c < new ∧ old < pageBase c old + i * pageSize c + pageSize c := by
  unfold pagesToCover at lt
  split at lt
  · omega
  · rename_i grows
    have base : pageBase c old = old / pageSize c * pageSize c := by
      rw [pageBase, Nat.mul_comm, Nat.sub_eq_of_eq_add (Nat.div_add_mod old (pageSize c)).symm]
    have rises : old / pageSize c ≤ (new - 1) / pageSize c := Nat.div_le_div_right (by omega)
    have last : (old / pageSize c + i) * pageSize c ≤ (new - 1) / pageSize c * pageSize c :=
      Nat.mul_le_mul_right _ (by omega)
    have inside := Nat.div_mul_le_self (new - 1) (pageSize c)
    have above := Nat.lt_div_mul_add (a := old) (b := pageSize c) (Nat.two_pow_pos c.pageBits)
    rw [Nat.add_mul] at last
    omega

/-- A service that is done changed memory by a growing break alone (45_system.md R203-R211). -/
theorem runService_memoryChanges {v : Service} {arg res : Word} {s t : State} (h : runService v arg s = .done res t) :
    MemoryChanges (MeetsNewBreak s t) s t := by
  cases v with
  | printInt => cases h; exact MemoryChanges.refl.elsewhere rfl rfl rfl
  | printChar => cases h; exact MemoryChanges.refl.elsewhere rfl rfl rfl
  | printString =>
    simp only [runService, servicePrintString] at h
    split at h <;> cases h
    exact MemoryChanges.refl.elsewhere rfl rfl rfl
  | readInt =>
    simp only [runService, serviceReadInt] at h
    split at h <;> cases h
    exact MemoryChanges.refl.elsewhere rfl rfl rfl
  | readChar =>
    simp only [runService, serviceReadChar] at h
    split at h <;> cases h
    exact MemoryChanges.refl.elsewhere rfl rfl rfl
  | sbrk =>
    simp only [runService, serviceSbrk] at h
    split at h <;> cases h
    rename_i bounds
    have break_eq := toNat_ofInt_of_le (Int.not_lt.1 fun c => bounds (.inr c)) (Int.not_lt.1 fun c => bounds (.inl c))
    refine (MemoryChanges.refl.allocPages _ _ (pageBase_mod _ _) fun i lt => ?_).elsewhere rfl rfl rfl
    rw [← break_eq] at lt
    exact pagesToCover_meet lt
  | heapBaseQ => cases h; exact MemoryChanges.refl
  | heapMaxQ => cases h; exact MemoryChanges.refl
  | exit => cases h; exact MemoryChanges.refl.elsewhere rfl rfl rfl

theorem ecallEffect_leaves_memoryEffect (p : Word) (s : State) : MemoryEffect s ((ecallEffect s).leaves p s) := by
  cases h : ecallEffect s with
  | holds => exact (MemoryEffect.refl s).of_memorySide_eq rfl
  | stops e out => exact (MemoryEffect.refl s).of_memorySide_eq rfl
  | done res t =>
    obtain ⟨v, u, w, -, served, committed, rfl⟩ := ecallEffect_done h
    have effect := (runService_memoryChanges served).commit committed
    show MemoryEffect s (State.count _)
    split <;> exact effect.of_memorySide_eq rfl

/-! ### Both engines -/

/-- A commit of the state itself. -/
theorem MemoryEffect.of_commit {r : Reg} {v : Word} {s t : State} (c : commit r v s = .ok t) : MemoryEffect s t :=
  MemoryChanges.refl.commit c

/-- Every instruction but ECALL (40_execution_step.md R95, R100, R101). -/
theorem finish_memoryEffect {x : Executed} {rd : Reg} {s t : State} (h : finish x rd s = .next t) : MemoryEffect s t := by
  obtain ⟨v, npc, u, committed, done⟩ | ⟨k, ea, data, m, written, done⟩ | ⟨npc, done⟩ | ⟨e, done⟩ := finish_cases x rd s <;>
    rw [done] at h <;> cases h
  · exact (MemoryEffect.of_commit committed).of_memorySide_eq rfl
  · exact ((MemoryEffect.refl s).store written).of_memorySide_eq rfl
  · exact (MemoryEffect.refl s).of_memorySide_eq rfl
  · exact (MemoryEffect.refl s).of_memorySide_eq rfl

theorem exec_memoryEffect {i : Instr} {s t : State} (h : exec i s = .next t) : MemoryEffect s t := by
  by_cases ecall : i = .ecall
  · subst ecall
    obtain ⟨u, done, leaves⟩ := execEcall_leaves s
    cases done.symm.trans h
    exact (ecallEffect_leaves_memoryEffect s.pc s).of_architecture_eq leaves
  · obtain ⟨x, rd, finishes⟩ := exec_finish i s ecall
    exact finish_memoryEffect (finishes.symm.trans h)

theorem atomicStep_memoryEffect {s t : State} (h : atomicStep s = .next t) : MemoryEffect s t := by
  unfold atomicStep at h
  split at h
  · cases h
    exact (MemoryEffect.refl s).of_memorySide_eq rfl
  · rename_i w _
    cases d : decode w with
    | instr i => rw [d] at h; exact exec_memoryEffect h
    | unimplemented => rw [d] at h; exact finish_memoryEffect (x := .nothing) (rd := 0) h
    | nothing => rw [d] at h; exact finish_memoryEffect (x := .nothing) (rd := 0) h

/-- However W ends, it has done what one instruction does (70_reset_and_hazards.md R259). -/
theorem wStage_leaves_memoryEffect (p : Word) (s : State) : MemoryEffect s ((wStage s).leaves p s) := by
  cases valid : s.wl.valid with
  | false => rw [wStage_invalid valid]; exact MemoryEffect.refl s
  | true =>
    cases tag : s.wl.exc with
    | some e => rw [wStage_tagged valid tag]; exact (MemoryEffect.refl s).of_memorySide_eq rfl
    | none =>
      cases ecall : s.wl.d.sub.isEcall with
      | true =>
        rw [wStage_ecall valid tag (eq_ecall_of_isEcall ecall)]
        exact ecallEffect_leaves_memoryEffect p s
      | false =>
        rw [wStage_of_commit valid tag ecall]
        cases committed : commit (s.wl.d.sub.dest.getD 0) s.wl.value s with
        | error e => exact (MemoryEffect.refl s).of_memorySide_eq rfl
        | ok t => exact (MemoryEffect.of_commit committed).of_memorySide_eq rfl

/-- After W, the M stage stores or leaves memory (70_reset_and_hazards.md R260). -/
theorem mStage_memoryEffect {s t : State} {l : MemoryLatch} {r : MResult} (h : MemoryEffect s t)
    (stage : mStage t.cfg t.mem l = .ok r) : MemoryEffect s (t.setMem r.mem) := by
  obtain ⟨same | ⟨k, written⟩, -⟩ := mStage_ok stage
  · rw [same]; exact h
  · exact h.store written

theorem cycle_memoryEffect {s t : State} (h : cycle s = .next t) : MemoryEffect s t := by
  have w := wStage_leaves_memoryEffect s.wl.pc s
  obtain ⟨hw, done⟩ | ⟨e, u, hw, done⟩ | ⟨u, hw, done⟩ | ⟨u, b, e, hw, -, done⟩ | ⟨u, b, r, hw, hm, done⟩ := cycle_cases s <;>
    rw [hw] at w <;> rw [done] at h <;> cases h
  · exact w
  · exact w.of_architecture_eq rfl
  · exact w.of_architecture_eq rfl
  · exact MemoryEffect.of_memorySide_eq w rfl
  · exact (mStage_memoryEffect w hm).of_architecture_eq rfl

theorem engineStep_memoryEffect {s t : State} (h : engineStep s = .next t) : MemoryEffect s t := by
  unfold engineStep at h
  split at h
  · exact atomicStep_memoryEffect h
  · exact cycle_memoryEffect h

/-- What every step does to memory. -/
theorem step_memoryEffect {s t : State} (h : step s = .next t) : MemoryEffect s t := by
  obtain ⟨-, performed⟩ | ⟨-, idle | paused⟩ := step_cases s
  · rw [performed] at h
    cases engine : engineStep s with
    | next u =>
      rw [engine] at h
      cases h
      exact (engineStep_memoryEffect engine).of_architecture_eq rfl
    | fault e => rw [engine] at h; cases h
    | refused r => rw [engine] at h; cases h
  · cases idle.symm.trans h
    exact MemoryEffect.refl s
  · cases paused.symm.trans h
    exact (MemoryEffect.refl s).of_architecture_eq rfl

/-! ### The statements -/

/-- Settles O43: pages are created at bases below MAXADDR, and a store writes in present pages. -/
theorem stepKeepsMemoryForm : Obligations.StepKeepsMemoryForm := by
  intro s t inv h
  have effect := step_memoryEffect h
  rw [State.memoryInv, effect.cfg]
  exact effect.wf inv

/-- Settles O45: Alloc adds pages, of x2 or of a growing heap, and takes a new draw for each. -/
theorem pagesOnlyGrow : Obligations.PagesOnlyGrow := by
  intro s t h
  have effect := step_memoryEffect h
  rw [effect.cfg]
  exact ⟨fun _ _ => effect.walk_present, fun _ _ => effect.walk_created, effect.drawsInv⟩

/-- Settles O46: every store is checked before it writes. -/
theorem readOnlyPagesKeepTheirBytes : Obligations.ReadOnlyPagesKeepTheirBytes := by
  intro s t a p h found readOnly
  have effect := step_memoryEffect h
  rw [effect.cfg]
  exact effect.byteAt_readOnly found readOnly

end Sys2Proof.Machine
end

section
/-! PROOFS. The formats (30_encoding.md R71-R77): the fields of an encoded word, and the encoding of a word's fields. -/

namespace Sys2Proof

/-! ### The fields of an encoded word (R72-R77)

The lemmas on parts of an append match where its width is a sum: so `simp` must not evaluate sums. -/

section
variable (f7 op : BitVec 7) (rs2 rs1 rd : Reg) (f3 : BitVec 3)

@[simp] theorem encodeR_fields :
    opcodeOf (encodeR f7 rs2 rs1 f3 rd op) = op ∧ rdOf (encodeR f7 rs2 rs1 f3 rd op) = rd ∧
    funct3Of (encodeR f7 rs2 rs1 f3 rd op) = f3 ∧ rs1Of (encodeR f7 rs2 rs1 f3 rd op) = rs1 ∧
    rs2Of (encodeR f7 rs2 rs1 f3 rd op) = rs2 ∧ funct7Of (encodeR f7 rs2 rs1 f3 rd op) = f7 := by
  simp [-Nat.reduceAdd, encodeR, opcodeOf, rdOf, funct3Of, rs1Of, rs2Of, funct7Of, BitVec.extractLsb'_append_eq_of_le,
    BitVec.extractLsb'_append_eq_right, BitVec.extractLsb'_eq_self]

@[simp] theorem encodeI_fields (imm : BitVec 12) :
    opcodeOf (encodeI imm rs1 f3 rd op) = op ∧ rdOf (encodeI imm rs1 f3 rd op) = rd ∧
    funct3Of (encodeI imm rs1 f3 rd op) = f3 ∧ rs1Of (encodeI imm rs1 f3 rd op) = rs1 ∧
    fieldI (encodeI imm rs1 f3 rd op) = imm := by
  simp [-Nat.reduceAdd, encodeI, opcodeOf, rdOf, funct3Of, rs1Of, fieldI, BitVec.extractLsb'_append_eq_of_le,
    BitVec.extractLsb'_append_eq_right, BitVec.extractLsb'_eq_self]

@[simp] theorem encodeS_fields (imm : BitVec 12) :
    opcodeOf (encodeS imm rs2 rs1 f3 op) = op ∧ funct3Of (encodeS imm rs2 rs1 f3 op) = f3 ∧
    rs1Of (encodeS imm rs2 rs1 f3 op) = rs1 ∧ rs2Of (encodeS imm rs2 rs1 f3 op) = rs2 ∧
    fieldS (encodeS imm rs2 rs1 f3 op) = imm := by
  simp [-Nat.reduceAdd, encodeS, opcodeOf, funct3Of, rs1Of, rs2Of, fieldS, BitVec.extractLsb'_append_eq_of_le,
    BitVec.extractLsb'_append_eq_right, BitVec.extractLsb'_eq_self, BitVec.extractLsb'_append_extractLsb']

@[simp] theorem encodeB_fields (off : BitVec 13) :
    opcodeOf (encodeB off rs2 rs1 f3 op) = op ∧ funct3Of (encodeB off rs2 rs1 f3 op) = f3 ∧
    rs1Of (encodeB off rs2 rs1 f3 op) = rs1 ∧ rs2Of (encodeB off rs2 rs1 f3 op) = rs2 := by
  simp [-Nat.reduceAdd, encodeB, opcodeOf, funct3Of, rs1Of, rs2Of, BitVec.extractLsb'_append_eq_of_le,
    BitVec.extractLsb'_append_eq_right]

@[simp] theorem encodeU_fields (imm : BitVec 20) :
    opcodeOf (encodeU imm rd op) = op ∧ rdOf (encodeU imm rd op) = rd ∧ fieldU (encodeU imm rd op) = imm := by
  simp [-Nat.reduceAdd, encodeU, opcodeOf, rdOf, fieldU, BitVec.extractLsb'_append_eq_of_le,
    BitVec.extractLsb'_append_eq_right, BitVec.extractLsb'_eq_self]

@[simp] theorem encodeJ_fields (off : BitVec 21) :
    opcodeOf (encodeJ off rd op) = op ∧ rdOf (encodeJ off rd op) = rd := by
  simp [-Nat.reduceAdd, encodeJ, opcodeOf, rdOf, BitVec.extractLsb'_append_eq_of_le, BitVec.extractLsb'_append_eq_right]

/-- A zero low bit of a value, as a field of it. -/
theorem extractLsb'_zero_one_eq_zero {n : Nat} {x : BitVec n} (h : x.getLsbD 0 = false) : x.extractLsb' 0 1 = 0#1 := by
  ext i lt
  simp [Nat.lt_one_iff.1 lt, h]

/-- An offset's low bit is not in the word: it comes back as the zero it was (R75). -/
theorem fieldB_encodeB {off : BitVec 13} (h : off.getLsbD 0 = false) : fieldB (encodeB off rs2 rs1 f3 op) = off := by
  rw [fieldB, ← extractLsb'_zero_one_eq_zero h]
  simp [-Nat.reduceAdd, encodeB, BitVec.extractLsb'_append_eq_of_le, BitVec.extractLsb'_append_eq_of_add_le,
    BitVec.extractLsb'_append_extractLsb'_eq_extractLsb', BitVec.extractLsb'_eq_self]

/-- An offset's low bit is not in the word: it comes back as the zero it was (R77). -/
theorem fieldJ_encodeJ {off : BitVec 21} (h : off.getLsbD 0 = false) : fieldJ (encodeJ off rd op) = off := by
  rw [fieldJ, ← extractLsb'_zero_one_eq_zero h]
  simp [-Nat.reduceAdd, encodeJ, BitVec.extractLsb'_append_eq_of_le, BitVec.extractLsb'_append_eq_of_add_le,
    BitVec.extractLsb'_append_extractLsb'_eq_extractLsb', BitVec.extractLsb'_eq_self]

end

/-! ### A word is the encoding of its fields -/

section
variable {w : InstWord} {f7 op : BitVec 7} {f3 : BitVec 3} (opcode : opcodeOf w = op)
include opcode

theorem encodeU_eq : encodeU (fieldU w) (rdOf w) op = w := by
  simp [-Nat.reduceAdd, ← opcode, encodeU, fieldU, rdOf, opcodeOf,
    BitVec.extractLsb'_append_extractLsb'_eq_extractLsb', BitVec.extractLsb'_eq_self]

theorem encodeJ_eq : encodeJ (fieldJ w) (rdOf w) op = w := by
  simp [-Nat.reduceAdd, ← opcode, encodeJ, fieldJ, rdOf, opcodeOf,
    BitVec.extractLsb'_append_eq_of_le, BitVec.extractLsb'_append_eq_of_add_le,
    BitVec.extractLsb'_append_extractLsb'_eq_extractLsb', BitVec.extractLsb'_eq_self]

variable (funct3 : funct3Of w = f3)
include funct3

theorem encodeI_eq : encodeI (fieldI w) (rs1Of w) f3 (rdOf w) op = w := by
  simp [-Nat.reduceAdd, ← opcode, ← funct3, encodeI, fieldI, rs1Of, funct3Of, rdOf, opcodeOf,
    BitVec.extractLsb'_append_extractLsb'_eq_extractLsb', BitVec.extractLsb'_eq_self]

theorem encodeS_eq : encodeS (fieldS w) (rs2Of w) (rs1Of w) f3 op = w := by
  simp [-Nat.reduceAdd, ← opcode, ← funct3, encodeS, fieldS, rs2Of, rs1Of, funct3Of, opcodeOf,
    BitVec.extractLsb'_append_eq_of_le, BitVec.extractLsb'_append_eq_right,
    BitVec.extractLsb'_append_extractLsb'_eq_extractLsb', BitVec.extractLsb'_eq_self]

theorem encodeB_eq : encodeB (fieldB w) (rs2Of w) (rs1Of w) f3 op = w := by
  simp [-Nat.reduceAdd, ← opcode, ← funct3, encodeB, fieldB, rs2Of, rs1Of, funct3Of, opcodeOf,
    BitVec.extractLsb'_append_eq_of_le, BitVec.extractLsb'_append_eq_of_add_le,
    BitVec.extractLsb'_append_extractLsb'_eq_extractLsb', BitVec.extractLsb'_eq_self]

theorem encodeR_eq (funct7 : funct7Of w = f7) : encodeR f7 (rs2Of w) (rs1Of w) f3 (rdOf w) op = w := by
  simp [-Nat.reduceAdd, ← opcode, ← funct3, ← funct7, encodeR, funct7Of, rs2Of, rs1Of, funct3Of, rdOf, opcodeOf,
    BitVec.extractLsb'_append_extractLsb'_eq_extractLsb', BitVec.extractLsb'_eq_self]

end

/-! ### The bits of the immediate fields (R73-R77) -/

section
variable (w : InstWord) {k : Nat}

theorem getLsbD_fieldI (lt : k < 12) : (fieldI w).getLsbD k = w.getLsbD (k + 20) := by
  rw [fieldI, BitVec.getLsbD_extractLsb', decide_eq_true lt, Bool.true_and, Nat.add_comm]

theorem getLsbD_fieldS (lt : k < 12) :
    (fieldS w).getLsbD k = if k < 5 then w.getLsbD (k + 7) else w.getLsbD (k + 20) := by
  simp only [fieldS, BitVec.getLsbD_append, BitVec.getLsbD_extractLsb']
  grind

theorem getLsbD_fieldB (lt : k < 13) :
    (fieldB w).getLsbD k =
      if k = 0 then false else if k < 5 then w.getLsbD (k + 7) else if k < 11 then w.getLsbD (k + 20)
        else if k = 11 then w.getLsbD 7 else w.getLsbD 31 := by
  simp only [fieldB, BitVec.getLsbD_append, BitVec.getLsbD_extractLsb']
  grind

theorem getLsbD_fieldU (lt : k < 32) :
    (fieldU w ++ 0#12).getLsbD k = if k < 12 then false else w.getLsbD k := by
  simp only [fieldU, BitVec.getLsbD_append, BitVec.getLsbD_extractLsb']
  grind

theorem getLsbD_fieldJ (lt : k < 21) :
    (fieldJ w).getLsbD k =
      if k = 0 then false else if k < 11 then w.getLsbD (k + 20) else if k = 11 then w.getLsbD 20
        else if k < 20 then w.getLsbD k else w.getLsbD 31 := by
  simp only [fieldJ, BitVec.getLsbD_append, BitVec.getLsbD_extractLsb']
  grind

/-- Bit 0 of a branch offset is the fixed zero (R75). -/
theorem fieldB_even : (!(fieldB w).getLsbD 0) = true := by
  rw [getLsbD_fieldB w (by decide)]; rfl

/-- Bit 0 of a JAL offset is the fixed zero (R77). -/
theorem fieldJ_even : (!(fieldJ w).getLsbD 0) = true := by
  rw [getLsbD_fieldJ w (by decide)]; rfl

end

/-- A sign-extended field: from its own top bit on, that bit. -/
theorem getLsbD_signExtend_field {n : Nat} (f : BitVec (n + 1)) {k : Nat} (lt : k < 64) :
    (f.signExtend 64).getLsbD k = f.getLsbD (min k n) := by
  rw [BitVec.getLsbD_signExtend, decide_eq_true lt, Bool.true_and, BitVec.msb_eq_getLsbD_last]
  split <;> congr 1 <;> omega

/-- Settles O5: each immediate is its field, sign-extended. -/
theorem immediateBits : Obligations.ImmediateBits := by
  intro w k lt
  simp only [immOf, imm12, immB, immU, immJ, getLsbD_signExtend_field _ lt]
  refine ⟨?i, ?s, ?b, ?u, ?j⟩
  case i => rw [getLsbD_fieldI w (by omega)]; grind
  case s => rw [getLsbD_fieldS w (by omega)]; grind
  case b => rw [getLsbD_fieldB w (by omega)]; grind
  case u => rw [getLsbD_fieldU w (by omega)]; grind
  case j => rw [getLsbD_fieldJ w (by omega)]; grind

end Sys2Proof
end

section
/-! PROOFS. The decoder against the opcode table (30_encoding.md R79-R83): what decoding an encoded word gives, that a
word which decodes to an instruction is its encoding, and that a word outside the table is UNIMPLEMENTED. -/

namespace Sys2Proof

/-! ### Decoding an encoded word -/

/-- Bit 30 of a word in format I is bit 10 of its immediate field (R73). -/
@[simp] theorem encodeI_getElem_30 (imm : BitVec 12) (rs1 : Reg) (f3 : BitVec 3) (rd : Reg) (op : BitVec 7) :
    (encodeI imm rs1 f3 rd op)[30] = imm[10] := by
  obtain ⟨-, -, -, -, field⟩ := encodeI_fields op rs1 rd f3 imm
  simpa [fieldI] using congrArg (·[10]) field

/-- Settles O1: the fields of an encoded word are those it was made of, and lead the decoder to the instruction; what the
word leaves out (bit 0 of an offset) or fixes (bit 10 of a right shift's field), `WellFormed` gives. -/
theorem decodeOfEncode : Obligations.DecodeOfEncode := by
  intro i wf
  cases i
  case srli | srai | srliw | sraiw =>
    simp only [Instr.WellFormed, Bool.not_eq_true'] at wf
    simpa [encode, decode, decodeOpImm, decodeOpImm32] using wf
  case beq | bne | blt | bge | bltu | bgeu =>
    simp only [Instr.WellFormed, Bool.not_eq_true'] at wf
    simp [encode, decode, decodeBranch, fieldB_encodeB _ _ _ _ wf]
  case jal =>
    simp only [Instr.WellFormed, Bool.not_eq_true'] at wf
    simp [encode, decode, fieldJ_encodeJ _ _ wf]
  case ecall | ebreak => rfl
  all_goals simp [encode, decode, decodeLoad, decodeStore, decodeOp, decodeOp32, decodeOpImm, decodeOpImm32, decodeJalr]

/-! ### The rows of the opcode table (R80) -/

/-- The word matches no row of the table. -/
def MatchesNoRow (w : InstWord) : Prop := ∀ r ∈ tableRows, r.holds w = false

/-- The opcodes of R79. -/
def majorOpcodes : List (BitVec 7) :=
  [0b0000011#7, 0b0010011#7, 0b0010111#7, 0b0011011#7, 0b0100011#7, 0b0110011#7, 0b0110111#7, 0b0111011#7, 0b1100011#7,
    0b1100111#7, 0b1101111#7, 0b1110011#7]

/-- Every row fixes the opcode, to one of R79's. -/
theorem tableRows_opcode :
    ∀ r ∈ tableRows, opcodeOf r.mask = 0b1111111#7 ∧ opcodeOf r.pattern ∈ majorOpcodes := by decide

/-- No two rows agree on the bits that both fix. -/
theorem tableRows_disjoint :
    tableRows.Pairwise fun r q => r.pattern &&& q.mask ≠ q.pattern &&& r.mask := by decide

theorem row_mem_tableRows (i : Instr) : i.row ∈ tableRows := by
  cases i <;> (dsimp only [Instr.row]; decide)

section
open Laws.OpcodeRow

theorem row_holds_encode {i : Instr} (wf : i.WellFormed = true) : i.row.holds (encode i) = true := by
  cases i
  exacts [
    lui _ _ wf, auipc _ _ wf, addi _ _ _ wf, slti _ _ _ wf, sltiu _ _ _ wf, xori _ _ _ wf, ori _ _ _ wf,
    andi _ _ _ wf, slli _ _ _ wf, srli _ _ _ wf, srai _ _ _ wf, add _ _ _ wf, sub _ _ _ wf, sll _ _ _ wf,
    slt _ _ _ wf, sltu _ _ _ wf, xor _ _ _ wf, srl _ _ _ wf, sra _ _ _ wf, or _ _ _ wf, and _ _ _ wf, addiw _ _ _ wf,
    slliw _ _ _ wf, srliw _ _ _ wf, sraiw _ _ _ wf, addw _ _ _ wf, subw _ _ _ wf, sllw _ _ _ wf, srlw _ _ _ wf,
    sraw _ _ _ wf, mul _ _ _ wf, mulh _ _ _ wf, mulhsu _ _ _ wf, mulhu _ _ _ wf, div _ _ _ wf, divu _ _ _ wf,
    rem _ _ _ wf, remu _ _ _ wf, mulw _ _ _ wf, divw _ _ _ wf, divuw _ _ _ wf, remw _ _ _ wf, remuw _ _ _ wf,
    lb _ _ _ wf, lh _ _ _ wf, lw _ _ _ wf, ld _ _ _ wf, lbu _ _ _ wf, lhu _ _ _ wf, lwu _ _ _ wf, sb _ _ _ wf,
    sh _ _ _ wf, sw _ _ _ wf, sd _ _ _ wf, jal _ _ wf, jalr _ _ _ wf, beq _ _ _ wf, bne _ _ _ wf, blt _ _ _ wf,
    bge _ _ _ wf, bltu _ _ _ wf, bgeu _ _ _ wf, ecall wf, ebreak wf]

end

theorem TableRow.holds_iff (r : TableRow) (w : InstWord) : r.holds w = true ↔ w &&& r.mask = r.pattern := beq_iff_eq

/-- A field that the mask covers is the pattern's. -/
theorem TableRow.field_of_holds {r : TableRow} {w : InstWord} (h : r.holds w = true) (start len : Nat)
    (covered : r.mask.extractLsb' start len = BitVec.allOnes len) :
    w.extractLsb' start len = r.pattern.extractLsb' start len := by
  rw [← (r.holds_iff w).1 h, BitVec.extractLsb'_and, covered, BitVec.and_allOnes]

theorem TableRow.opcode_of_holds {r : TableRow} {w : InstWord} (mem : r ∈ tableRows) (h : r.holds w = true) :
    opcodeOf w = opcodeOf r.pattern :=
  r.field_of_holds h 0 7 (tableRows_opcode r mem).1

/-- One word does not match two rows. -/
theorem row_unique {r q : TableRow} {w : InstWord} (memR : r ∈ tableRows) (memQ : q ∈ tableRows) (hr : r.holds w = true)
    (hq : q.holds w = true) : r = q := by
  by_contra distinct
  have symmetric : Std.Symm fun r q : TableRow => r.pattern &&& q.mask ≠ q.pattern &&& r.mask := ⟨fun _ _ => Ne.symm⟩
  refine tableRows_disjoint.forall memR memQ distinct ?_
  rw [← (r.holds_iff w).1 hr, ← (q.holds_iff w).1 hq, BitVec.and_assoc, BitVec.and_assoc, BitVec.and_comm r.mask]

/-! ### Words that match no row -/

section
variable {w : InstWord} {op : BitVec 7} (opcode : opcodeOf w = op)

theorem matchesNoRow_of_opcode (other : opcodeOf w ∉ majorOpcodes) : MatchesNoRow w := by
  intro r mem
  rw [Bool.eq_false_iff]
  intro h
  rw [TableRow.opcode_of_holds mem h] at other
  exact other (tableRows_opcode r mem).2

include opcode

/-- Every row of the opcode fixes funct3, and to a value with a property that the word's has not. -/
theorem matchesNoRow_of_funct3 (P : BitVec 3 → Prop)
    (rows : ∀ r ∈ tableRows, opcodeOf r.pattern = op → funct3Of r.mask = 0b111#3 ∧ P (funct3Of r.pattern))
    (other : ¬P (funct3Of w)) : MatchesNoRow w := by
  intro r mem
  rw [Bool.eq_false_iff]
  intro h
  obtain ⟨covered, holds⟩ := rows r mem ((TableRow.opcode_of_holds mem h).symm.trans opcode)
  have f3 : funct3Of w = funct3Of r.pattern := r.field_of_holds h 12 3 covered
  rw [f3] at other
  exact other holds

/-- Every row of the opcode fixes funct7 and funct3, and to values with a property that the word's have not. -/
theorem matchesNoRow_of_funct7 (P : BitVec 7 → BitVec 3 → Prop)
    (rows : ∀ r ∈ tableRows, opcodeOf r.pattern = op →
      funct7Of r.mask = 0b1111111#7 ∧ funct3Of r.mask = 0b111#3 ∧ P (funct7Of r.pattern) (funct3Of r.pattern))
    (other : ¬P (funct7Of w) (funct3Of w)) : MatchesNoRow w := by
  intro r mem
  rw [Bool.eq_false_iff]
  intro h
  obtain ⟨covered7, covered3, holds⟩ := rows r mem ((TableRow.opcode_of_holds mem h).symm.trans opcode)
  have f7 : funct7Of w = funct7Of r.pattern := r.field_of_holds h 25 7 covered7
  have f3 : funct3Of w = funct3Of r.pattern := r.field_of_holds h 12 3 covered3
  rw [f7, f3] at other
  exact other holds

end

/-- The rows of SYSTEM fix every bit (D11). -/
theorem tableRows_system :
    ∀ r ∈ tableRows, opcodeOf r.pattern = 0b1110011#7 →
      r.mask = BitVec.allOnes 32 ∧ (r.pattern = 0x00000073#32 ∨ r.pattern = 0x00100073#32) := by decide

theorem matchesNoRow_system {w : InstWord} (opcode : opcodeOf w = 0b1110011#7) (ecall : w ≠ 0x00000073#32)
    (ebreak : w ≠ 0x00100073#32) : MatchesNoRow w := by
  intro r mem
  rw [Bool.eq_false_iff]
  intro h
  obtain ⟨covered, word⟩ := tableRows_system r mem ((TableRow.opcode_of_holds mem h).symm.trans opcode)
  rw [← (r.holds_iff w).1 h, covered, BitVec.and_allOnes] at word
  exact word.elim ecall ebreak

/-! ### What a decoded word is -/

/-- The answer fits the word: an instruction is well-formed and encoded by the word, UNIMPLEMENTED stands for a word outside
the table, and NONE is never answered. -/
def Decoded.FitsWord (w : InstWord) : Decoded → Prop
  | .instr i => i.WellFormed = true ∧ encode i = w
  | .unimplemented => MatchesNoRow w
  | .nothing => False

section
variable {w : InstWord}

theorem decodeLoad_fits (op : opcodeOf w = 0b0000011#7) : (decodeLoad w).FitsWord w := by
  unfold decodeLoad
  split
  case h_8 =>
    exact matchesNoRow_of_funct3 op (· ∈ [0b000#3, 0b001#3, 0b010#3, 0b011#3, 0b100#3, 0b101#3, 0b110#3])
      (by decide) (by simp_all)
  all_goals exact ⟨rfl, encodeI_eq op (by assumption)⟩

theorem decodeStore_fits (op : opcodeOf w = 0b0100011#7) : (decodeStore w).FitsWord w := by
  unfold decodeStore
  split
  case h_5 => exact matchesNoRow_of_funct3 op (· ∈ [0b000#3, 0b001#3, 0b010#3, 0b011#3]) (by decide) (by simp_all)
  all_goals exact ⟨rfl, encodeS_eq op (by assumption)⟩

/-- Bit 30 of the word, which chooses the right shift, is bit 10 of the field (R73, R80). -/
@[simp] theorem fieldI_getElem_10 (w : InstWord) : (fieldI w)[10] = w[30] := BitVec.getElem_extractLsb' _

theorem decodeOpImm_fits (op : opcodeOf w = 0b0010011#7) : (decodeOpImm w).FitsWord w := by
  unfold decodeOpImm
  split
  case h_6 f3 =>
    dsimp only
    split <;> exact ⟨by simp_all [Instr.WellFormed], encodeI_eq op f3⟩
  case h_9 => -- the rows take all eight values of funct3
    exfalso
    generalize funct3Of w = f3 at *
    revert f3
    decide
  all_goals exact ⟨rfl, encodeI_eq op (by assumption)⟩

theorem decodeOpImm32_fits (op : opcodeOf w = 0b0011011#7) : (decodeOpImm32 w).FitsWord w := by
  unfold decodeOpImm32
  split
  case h_3 f3 =>
    dsimp only
    split <;> exact ⟨by simp_all [Instr.WellFormed], encodeI_eq op f3⟩
  case h_4 => exact matchesNoRow_of_funct3 op (· ∈ [0b000#3, 0b001#3, 0b101#3]) (by decide) (by simp_all)
  all_goals exact ⟨rfl, encodeI_eq op (by assumption)⟩

theorem decodeOp_fits (op : opcodeOf w = 0b0110011#7) : (decodeOp w).FitsWord w := by
  unfold decodeOp
  split
  case h_19 =>
    exact matchesNoRow_of_funct7 op
      (fun f7 f3 => (f7, f3) ∈ [(0b0000000#7, 0b000#3), (0b0000000#7, 0b001#3), (0b0000000#7, 0b010#3),
        (0b0000000#7, 0b011#3), (0b0000000#7, 0b100#3), (0b0000000#7, 0b101#3), (0b0000000#7, 0b110#3),
        (0b0000000#7, 0b111#3), (0b0100000#7, 0b000#3), (0b0100000#7, 0b101#3), (0b0000001#7, 0b000#3),
        (0b0000001#7, 0b001#3), (0b0000001#7, 0b010#3), (0b0000001#7, 0b011#3), (0b0000001#7, 0b100#3),
        (0b0000001#7, 0b101#3), (0b0000001#7, 0b110#3), (0b0000001#7, 0b111#3)])
      (by decide) (by simp_all)
  all_goals exact ⟨rfl, encodeR_eq op (by assumption) (by assumption)⟩

theorem decodeOp32_fits (op : opcodeOf w = 0b0111011#7) : (decodeOp32 w).FitsWord w := by
  unfold decodeOp32
  split
  case h_11 =>
    exact matchesNoRow_of_funct7 op
      (fun f7 f3 => (f7, f3) ∈ [(0b0000000#7, 0b000#3), (0b0000000#7, 0b001#3), (0b0000000#7, 0b101#3),
        (0b0100000#7, 0b000#3), (0b0100000#7, 0b101#3), (0b0000001#7, 0b000#3), (0b0000001#7, 0b100#3),
        (0b0000001#7, 0b101#3), (0b0000001#7, 0b110#3), (0b0000001#7, 0b111#3)])
      (by decide) (by simp_all)
  all_goals exact ⟨rfl, encodeR_eq op (by assumption) (by assumption)⟩

theorem decodeBranch_fits (op : opcodeOf w = 0b1100011#7) : (decodeBranch w).FitsWord w := by
  unfold decodeBranch
  split
  case h_7 =>
    exact matchesNoRow_of_funct3 op (· ∈ [0b000#3, 0b001#3, 0b100#3, 0b101#3, 0b110#3, 0b111#3]) (by decide)
      (by simp_all)
  all_goals exact ⟨fieldB_even w, encodeB_eq op (by assumption)⟩

theorem decodeJalr_fits (op : opcodeOf w = 0b1100111#7) : (decodeJalr w).FitsWord w := by
  unfold decodeJalr
  split
  case h_1 f3 => exact ⟨rfl, encodeI_eq op f3⟩
  case h_2 => exact matchesNoRow_of_funct3 op (· = 0b000#3) (by decide) (by simp_all)

theorem decodeSystem_fits (op : opcodeOf w = 0b1110011#7) : (decodeSystem w).FitsWord w := by
  unfold decodeSystem
  split
  case isTrue ecall => exact ⟨rfl, ecall.symm⟩
  case isFalse noEcall =>
    split
    case isTrue ebreak => exact ⟨rfl, ebreak.symm⟩
    case isFalse noEbreak => exact matchesNoRow_system op noEcall noEbreak

theorem decode_fits (w : InstWord) : (decode w).FitsWord w := by
  unfold decode
  split
  case h_1 op => exact decodeLoad_fits op
  case h_2 op => exact decodeOpImm_fits op
  case h_3 op => exact ⟨rfl, encodeU_eq op⟩
  case h_4 op => exact decodeOpImm32_fits op
  case h_5 op => exact decodeStore_fits op
  case h_6 op => exact decodeOp_fits op
  case h_7 op => exact ⟨rfl, encodeU_eq op⟩
  case h_8 op => exact decodeOp32_fits op
  case h_9 op => exact decodeBranch_fits op
  case h_10 op => exact decodeJalr_fits op
  case h_11 op => exact ⟨fieldJ_even w, encodeJ_eq op⟩
  case h_12 op => exact decodeSystem_fits op
  case h_13 => exact matchesNoRow_of_opcode (by simp_all [majorOpcodes])

end

/-- Settles O2: what `decode_fits` says of a word that decodes to an instruction. -/
theorem encodeOfDecode : Obligations.EncodeOfDecode := by
  intro w i decoded
  have fits := decode_fits w
  rw [decoded] at fits
  exact fits

/-! ### The decoder follows the table -/

section
variable {w : InstWord}

/-- A decoded word matches the row of its instruction. -/
theorem row_holds_of_decode {i : Instr} (h : decode w = .instr i) : i.row.holds w = true := by
  obtain ⟨wf, word⟩ := encodeOfDecode w i h
  rw [← word]
  exact row_holds_encode wf

theorem decode_of_row {r : TableRow} (mem : r ∈ tableRows) (h : r.holds w = true) :
    ∃ i, decode w = .instr i ∧ i.row = r := by
  have fits := decode_fits w
  cases decoded : decode w with
  | instr i => exact ⟨i, rfl, row_unique (row_mem_tableRows i) mem (row_holds_of_decode decoded) h⟩
  | unimplemented =>
    rw [decoded] at fits
    rw [fits r mem] at h
    cases h
  | nothing => rw [decoded] at fits; cases fits

theorem decode_eq_unimplemented_iff (w : InstWord) : decode w = .unimplemented ↔ MatchesNoRow w := by
  have fits := decode_fits w
  constructor
  · intro decoded
    rw [decoded] at fits
    exact fits
  · intro outside
    cases decoded : decode w with
    | instr i =>
      have row := row_holds_of_decode decoded
      rw [outside _ (row_mem_tableRows i)] at row
      cases row
    | unimplemented => rfl
    | nothing => rw [decoded] at fits; cases fits

end

/-- Settles O3: a decoded word is its instruction's encoding, which matches the row; and the rows are disjoint. -/
theorem decodeFollowsTable : Obligations.DecodeFollowsTable :=
  ⟨fun _ i decoded => ⟨row_holds_of_decode decoded, row_mem_tableRows i⟩, fun _ _ => decode_of_row,
    decode_eq_unimplemented_iff, fun _ _ _ => row_unique⟩

/-! ### Words that are no instruction (R86) -/

/-- Every opcode of R79 ends in 11 (R89). -/
theorem majorOpcodes_low_bits : ∀ op ∈ majorOpcodes, op.extractLsb' 0 2 = 0b11#2 := by decide

/-- Settles O6: each clause names an opcode outside R79, or fields that no row of the opcode has. -/
theorem noOtherEncodings : Obligations.NoOtherEncodings := by
  intro w
  simp only [decode_eq_unimplemented_iff]
  refine ⟨?compressed, ?foreign, matchesNoRow_system, ?load, ?branch, ?store, ?op, id,
    (decode_eq_unimplemented_iff _).1 rfl⟩
  case compressed =>
    intro low
    refine matchesNoRow_of_opcode fun major => low ?_
    rw [← majorOpcodes_low_bits _ major, opcodeOf, BitVec.extractLsb'_extractLsb'_of_le (by decide)]
  case foreign =>
    intro foreign
    refine matchesNoRow_of_opcode ?_
    change opcodeOf w ∈ _ at foreign
    generalize opcodeOf w = op at foreign ⊢
    revert op
    decide
  case load =>
    intro opcode reserved
    exact matchesNoRow_of_funct3 opcode (· ≠ 0b111#3) (by decide) (not_not.2 reserved)
  case branch =>
    intro opcode reserved
    exact matchesNoRow_of_funct3 opcode (fun f3 => ¬(f3 = 0b010#3 ∨ f3 = 0b011#3)) (by decide) (not_not.2 reserved)
  case store =>
    intro opcode reserved
    exact matchesNoRow_of_funct3 opcode (·.toNat < 4) (by decide) (Nat.not_lt.2 reserved)
  case op =>
    intro opcode reserved
    have other := not_not.2 reserved
    obtain opcode | opcode := opcode <;> exact matchesNoRow_of_funct7 opcode (fun f7 f3 =>
      ¬(f7 ∉ [0b0000000#7, 0b0100000#7, 0b0000001#7] ∨ f7 = 0b0100000#7 ∧ f3 ≠ 0b000#3 ∧ f3 ≠ 0b101#3))
      (by decide) other

/-- Settles O4: thirteen words and 0, decoded. -/
theorem wordsDecode : Obligations.WordsDecode := by
  unfold Obligations.WordsDecode
  decide

end Sys2Proof
end

section
/-! PROOFS. The latches (70_reset_and_hazards.md R256): only a cycle that ticks changes them, and what it puts into E, M and
W keeps the records of 30_encoding.md R82. -/

namespace Sys2Proof.Machine

/-! ### What leaves the latches alone -/

/-- The five latches of a state. -/
def State.latches (s : State) : FetchLatch × DecodeLatch × ExecuteLatch × MemoryLatch × MemoryLatch :=
  (s.fl, s.dl, s.el, s.ml, s.wl)

theorem commit_latches {r : Reg} {v : Word} {s t : State} (h : commit r v s = .ok t) : t.latches = s.latches := by
  simp [State.latches, commit_fl h, commit_dl h, commit_el h, commit_ml h, commit_wl h]

/-- However an ECALL ends (45_system.md R200). -/
theorem ecallEffect_leaves_latches (p : Word) (s : State) : ((ecallEffect s).leaves p s).latches = s.latches := by
  cases h : ecallEffect s with
  | holds => rfl
  | stops e out => rfl
  | done res t =>
    obtain ⟨-, -, -, -, -, -, -, -, fl, dl, el, ml, wl⟩ := ecallEffect_fields h
    simp [ServiceResult.leaves, State.latches, fl, dl, el, ml, wl]

/-- Every instruction but ECALL in the atomic engine (40_execution_step.md R95). -/
theorem finish_latches {x : Executed} {rd : Reg} {s t : State} (h : finish x rd s = .next t) :
    t.latches = s.latches := by
  obtain ⟨v, npc, u, committed, done⟩ | ⟨k, ea, data, m, -, done⟩ | ⟨npc, done⟩ | ⟨e, done⟩ := finish_cases x rd s <;>
    cases done.symm.trans h
  · exact (commit_latches committed :)
  all_goals rfl

theorem execEcall_latches {s t : State} (h : execEcall s = .next t) : t.latches = s.latches := by
  have effect := ecallEffect_leaves_latches s.pc s
  unfold execEcall at h
  cases ended : ecallEffect s with
  | holds => rw [ended] at h; cases h; rfl
  | stops e out => rw [ended] at h; cases h; rfl
  | done res u => rw [ended] at h effect; cases h; exact effect

theorem exec_latches {i : Instr} {s t : State} (h : exec i s = .next t) : t.latches = s.latches := by
  by_cases ecall : i = .ecall
  · subst ecall
    exact execEcall_latches h
  · obtain ⟨x, rd, finishes⟩ := exec_finish i s ecall
    exact finish_latches (finishes.symm.trans h)

/-- The atomic engine has no use for the latches (log 2). -/
theorem atomicStep_latches {s t : State} (h : atomicStep s = .next t) : t.latches = s.latches := by
  unfold atomicStep at h
  split at h
  · cases h; rfl
  · rename_i w _
    cases d : decode w with
    | instr i => rw [d] at h; exact exec_latches h
    | unimplemented => rw [d] at h; exact finish_latches (x := .nothing) (rd := 0) h
    | nothing => rw [d] at h; exact finish_latches (x := .nothing) (rd := 0) h

/-- However the W stage ends (70_reset_and_hazards.md R259). -/
theorem wStage_leaves_latches (p : Word) (s : State) : ((wStage s).leaves p s).latches = s.latches := by
  cases valid : s.wl.valid with
  | false => rw [wStage_invalid valid]; rfl
  | true =>
    cases tag : s.wl.exc with
    | some e => rw [wStage_tagged valid tag]; rfl
    | none =>
      cases ecall : s.wl.d.sub.isEcall with
      | true =>
        rw [wStage_ecall valid tag (eq_ecall_of_isEcall ecall)]
        exact ecallEffect_leaves_latches p s
      | false =>
        rw [wStage_of_commit valid tag ecall]
        cases committed : commit (s.wl.d.sub.dest.getD 0) s.wl.value s with
        | error e => rfl
        | ok t => exact (commit_latches committed :)

/-! ### The records -/

theorem State.recordsInv_of_latches_eq {s t : State} (same : t.latches = s.latches) (inv : s.recordsInv = true) :
    t.recordsInv = true := by
  simp only [State.latches, Prod.mk.injEq] at same
  obtain ⟨-, -, el, ml, wl⟩ := same
  rw [State.recordsInv, el, ml, wl]
  exact inv

/-- E receives a bubble, or what the D stage made of its word (70_reset_and_hazards.md R262, R268). -/
theorem controller_record (s : State) (ex : EResult) (fe : FResult) (mn wn : MemoryLatch) :
    recordOfWord (controller s ex (dStage s mn wn) fe).e.d = true := by
  unfold controller
  repeat' split
  · exact recordOfWord_nothing
  · exact recordOfWord_nothing
  · exact dStage_record s mn wn
  · exact dStage_record s mn wn

/-- In a tick M receives the record of E, and W that of M (70_reset_and_hazards.md R256). -/
theorem tick_recordsInv {u : State} {r : MResult} (b : Bool) (stage : mStage u.cfg u.mem u.ml = .ok r)
    (inv : u.recordsInv = true) : (tick b r.wn (u.setMem r.mem)).recordsInv = true := by
  obtain ⟨-, value, handed⟩ := mStage_ok stage
  simp only [State.recordsInv, Bool.and_eq_true] at inv ⊢
  obtain ⟨⟨inE, inM⟩, -⟩ := inv
  refine ⟨⟨controller_record _ _ _ _ _, ?_⟩, ?_⟩
  · show recordOfWord (eStage u.cfg u.el).mn.d = true
    rw [eStage_record]; exact inE
  · show recordOfWord r.wn.d = true
    rw [handed]; exact inM

theorem cycle_recordsInv {s t : State} (h : cycle s = .next t) (inv : s.recordsInv = true) : t.recordsInv = true := by
  have w := wStage_leaves_latches s.wl.pc s
  obtain ⟨hw, done⟩ | ⟨e, u, hw, done⟩ | ⟨u, hw, done⟩ | ⟨u, b, e, hw, -, done⟩ | ⟨u, b, r, hw, stage, done⟩ :=
    cycle_cases s <;>
    rw [hw] at w <;> cases done.symm.trans h
  · exact inv
  · exact State.recordsInv_of_latches_eq w inv
  · exact State.recordsInv_of_latches_eq w inv
  · exact State.recordsInv_of_latches_eq w inv
  · exact tick_recordsInv b stage (State.recordsInv_of_latches_eq w inv)

theorem engineStep_recordsInv {s t : State} (h : engineStep s = .next t) (inv : s.recordsInv = true) :
    t.recordsInv = true := by
  unfold engineStep at h
  split at h
  · exact State.recordsInv_of_latches_eq (atomicStep_latches h) inv
  · exact cycle_recordsInv h inv

/-- Settles O51: only a tick changes the latches, and it moves records on or takes the one Decode made. -/
theorem stepKeepsRecords : Obligations.StepKeepsRecords := by
  intro s t inv h
  obtain ⟨-, performed⟩ | ⟨-, idle | paused⟩ := step_cases s
  · rw [performed] at h
    cases engine : engineStep s with
    | next u =>
      rw [engine] at h
      cases h
      exact (engineStep_recordsInv engine inv :)
    | fault e => rw [engine] at h; cases h
    | refused r => rw [engine] at h; cases h
  · cases idle.symm.trans h
    exact inv
  · cases paused.symm.trans h
    exact inv

end Sys2Proof.Machine
end

section
/-! PROOFS. A word outside the table (30_encoding.md R81): the step that fetches it. -/

namespace Sys2Proof.Machine

/-- A step whose word is UNIMPLEMENTED counts it and goes to the next address (45_system.md R214). -/
theorem step_of_unimplemented {s : State} {w : InstWord} (fetched : s.fetches w)
    (fallback : decode w = .unimplemented) :
    step s = .next { s with pc := s.pc + 4, icount := s.icount + 1, resuming := false } := by
  obtain ⟨mode, running, word⟩ := fetched
  obtain ⟨-, performed⟩ | ⟨idle, -⟩ := step_cases s
  · have notHeld : s.hold = false := by
      simp only [State.runs, Bool.and_eq_true, Bool.not_eq_true'] at running
      exact running.1.2
    have atomic : atomicStep s = .next (s.retire (nextPc s)) := by
      rw [atomicStep, word]
      simp only [fallback]
      rfl
    rw [performed, engineStep, mode]
    simp [atomic, afterStep, State.endResume, State.retire, nextPc, notHeld]
  · rw [running] at idle; cases idle

/-- Settles O8: a word outside the table is UNIMPLEMENTED (`decode_eq_unimplemented_iff`), whose Execute gives nothing. -/
theorem unimplementedIsCountedNop : Obligations.UnimplementedIsCountedNop := by
  intro s w fetched outside
  have fallback := (decode_eq_unimplemented_iff w).2 outside
  exact ⟨fallback, step_of_unimplemented fetched fallback⟩

end Sys2Proof.Machine
end

section
/-! PROOFS. When a step is performed, and what (40_execution_step.md R95, R102, R103): the check point, the instruction a
fetched word decodes to, and the run loop. -/

namespace Sys2Proof.Machine

/-! ### The step that is performed -/

/-- Where the machine runs, the engine steps. -/
theorem step_of_runs {s : State} (running : s.runs = true) : step s = afterStep (engineStep s) := by
  obtain ⟨-, performed⟩ | ⟨idle, -⟩ := step_cases s
  · exact performed
  · rw [running] at idle; cases idle

theorem runs_of_unpaused {s : State} (ended : s.ended = false) (hold : s.hold = false)
    (unpaused : s.atCheckPoint = false ∨ s.resuming = true) : s.runs = true := by
  rcases unpaused with h | h <;> simp [State.runs, ended, hold, h]

/-- The check point pauses a run that is not being resumed (60_exceptions.md R245). -/
theorem step_of_checkPoint {s : State} (ended : s.ended = false) (hold : s.hold = false) (fires : s.atCheckPoint = true)
    (fresh : s.resuming = false) : step s = .next s.pause := by
  simp [step, stepOnce, ended, hold, fires, fresh]

/-- A step that fetches a word executes what it decodes to. -/
theorem step_of_fetches {s : State} {w : InstWord} (fetched : s.fetches w) :
    step s = afterStep (execDecoded (decode w) s) := by
  obtain ⟨mode, running, word⟩ := fetched
  rw [step_of_runs running, engineStep, mode]
  simp only [atomicStep, word]

/-- Settles O7: `step_of_fetches`, with `afterStep` written out. -/
theorem stepRunsDecoded : Obligations.StepRunsDecoded := by
  intro s w i fetched decoded
  rw [step_of_fetches fetched, decoded]
  show afterStep (exec i s) = _
  cases exec i s <;> rfl

/-! ### The check point -/

theorem breakpointEnabled_iff (bps : List Breakpoint) (a : Word) :
    breakpointEnabled bps a = true ↔ ∃ b ∈ bps, b.enabled = true ∧ b.addr = a := by
  simp [breakpointEnabled]

/-- The check point fires at the pc, or at the address of a valid W latch (70_reset_and_hazards.md R274). -/
theorem State.atCheckPoint_iff (s : State) :
    s.atCheckPoint = true ↔
      (s.cfg.mode = .atomic ∧ ∃ b ∈ s.breakpoints, b.enabled = true ∧ b.addr = s.pc) ∨
      (s.cfg.mode = .pipelined ∧ s.wl.valid = true ∧ ∃ b ∈ s.breakpoints, b.enabled = true ∧ b.addr = s.wl.pc) := by
  unfold State.atCheckPoint
  cases s.cfg.mode <;> simp [breakpointEnabled_iff]

/-- Settles O11: an entry at the check point makes it fire (`State.atCheckPoint_iff`), and a resumed run passes it. -/
theorem checkPointPausesOnce : Obligations.CheckPointPausesOnce := by
  intro s ended hold entryAt
  have fires : s.atCheckPoint = true ↔ entryAt := s.atCheckPoint_iff
  refine ⟨fun entry fresh => ⟨step_of_checkPoint ended hold (fires.2 entry) fresh, ?_⟩, fun passes => ?_⟩
  · exact step_of_runs (s := s.pause) (runs_of_unpaused ended hold (.inr rfl))
  · refine step_of_runs (runs_of_unpaused ended hold (passes.imp_left fun none => ?_))
    rwa [← Bool.not_eq_true, fires]

/-! ### One turn of the run loop (R102) -/

/-- Everything the run loop can do with a bound on its steps left: answer at once, for the end of the run, a spent budget or
a hold; pause; answer HELD after a step; or step and go on. -/
theorem run_succ_cases (fuel : Nat) (n : Option Nat) (s : State) :
    ((n = some 0 ∨ s.ended = true) ∧ run (fuel + 1) n s = (endResult s, s)) ∨
    (n ≠ some 0 ∧ s.ended = false ∧
      ((s.hold = true ∧ run (fuel + 1) n s = (.held, s)) ∨
      (s.atCheckPoint = true ∧ step s = .next s.pause ∧ run (fuel + 1) n s = (.paused, s.pause)) ∨
      (∃ t, step s = .next t ∧ t.hold = true ∧ run (fuel + 1) n s = (.held, t)) ∨
      (∃ t, step s = .next t ∧ run (fuel + 1) n s = run fuel (spend n s t) t))) := by
  by_cases complete : n = some 0 ∨ s.ended = true
  · exact .inl ⟨complete, by simp [run, complete]⟩
  have ⟨budget, running⟩ := not_or.1 complete
  have ended : s.ended = false := Bool.eq_false_of_not_eq_true running
  refine .inr ⟨budget, ended, ?_⟩
  by_cases holds : s.hold = true
  · exact .inl ⟨holds, by simp [run, budget, ended, holds]⟩
  by_cases pauses : s.atCheckPoint = true ∧ s.resuming = false
  · obtain ⟨fires, fresh⟩ := pauses
    have paused := step_of_checkPoint ended (Bool.eq_false_of_not_eq_true holds) fires fresh
    exact .inr (.inl ⟨fires, paused, by simp [run, budget, ended, holds, fires, fresh]⟩)
  obtain ⟨t, stepped, -⟩ := step_answers s
  have unfolds : run (fuel + 1) n s = if t.hold then (.held, t) else run fuel (spend n s t) t := by
    simp [run, budget, ended, holds, pauses, stepped]
  by_cases waits : t.hold = true
  · exact .inr (.inr (.inl ⟨t, stepped, waits, by rw [unfolds, if_pos waits]⟩))
  · exact .inr (.inr (.inr ⟨t, stepped, by rw [unfolds, if_neg waits]⟩))

/-! ### What a call of the run loop has done -/

/-- What an answer of the run loop says of the state it leaves (40_execution_step.md R102). -/
def RunResult.HoldsOf (t : State) : RunResult → Prop
  | .finished => t.finished = true
  | .stopped => t.finished = false ∧ t.stop.isSome = true
  | .held => t.hold = true
  | .paused => t.resuming = true ∧ t.atCheckPoint = true
  | .budget | .fuelOut => True

/-- The answer at the end of a run, or of its budget. -/
theorem endResult_cases (s : State) :
    (s.finished = true ∧ endResult s = .finished) ∨
    (s.finished = false ∧ s.stop.isSome = true ∧ endResult s = .stopped) ∨
    (s.ended = false ∧ endResult s = .budget) := by
  cases finished : s.finished with
  | true => exact .inl ⟨rfl, by simp [endResult, finished]⟩
  | false =>
    cases stop : s.stop with
    | none => exact .inr (.inr ⟨by simp [State.ended, finished, stop], by simp [endResult, finished, stop]⟩)
    | some p => exact .inr (.inl ⟨rfl, rfl, by simp [endResult, finished, stop]⟩)

theorem endResult_holdsOf (s : State) : (endResult s).HoldsOf s := by
  obtain ⟨finished, answer⟩ | ⟨finished, stop, answer⟩ | ⟨-, answer⟩ := endResult_cases s <;> rw [answer]
  · exact finished
  · exact ⟨finished, stop⟩
  · trivial

theorem endResult_ne_fuelOut (s : State) : endResult s ≠ .fuelOut := by
  obtain ⟨-, answer⟩ | ⟨-, -, answer⟩ | ⟨-, answer⟩ := endResult_cases s <;> rw [answer] <;> nofun

theorem endResult_ne_budget {s : State} (h : s.ended = true) : endResult s ≠ .budget := by
  obtain ⟨-, answer⟩ | ⟨-, -, answer⟩ | ⟨running, -⟩ := endResult_cases s
  · rw [answer]; nofun
  · rw [answer]; nofun
  · rw [h] at running; cases running

/-- A call that takes no step gives an answer that holds; its bound runs out only where it is 0 (log 16). -/
theorem RunAnswered.at_once {fuel : Nat} {s : State} {r : RunResult} (answer : r.HoldsOf s)
    (bound : r = .fuelOut → fuel = 0) : RunAnswered fuel s s r where
  steps := ⟨0, Nat.zero_le _, rfl, fun out => (bound out).symm⟩
  ended := fun _ => rfl
  finished := by rintro rfl; exact answer
  stopped := by rintro rfl; exact answer
  held := by rintro rfl; exact answer
  paused := by rintro rfl; exact answer

/-- A step before what a call has done. -/
theorem RunAnswered.after_step {fuel : Nat} {s u t : State} {r : RunResult} (running : s.ended = false)
    (stepped : step s = .next u) (rest : RunAnswered fuel u t r) : RunAnswered (fuel + 1) s t r := by
  obtain ⟨j, within, leads, spent⟩ := rest.steps
  exact { rest with
    steps := ⟨j + 1, Nat.succ_le_succ within, ⟨u, stepped, leads⟩, fun out => congrArg (· + 1) (spent out)⟩
    ended := fun ended => absurd ended (by simp [running]) }

theorem run_answered (fuel : Nat) (n : Option Nat) (s : State) :
    RunAnswered fuel s (run fuel n s).2 (run fuel n s).1 := by
  induction fuel generalizing n s with
  | zero => exact .at_once trivial fun _ => rfl
  | succ fuel ih =>
    obtain ⟨-, done⟩ | ⟨-, running, ⟨holds, done⟩ | ⟨fires, stepped, done⟩ | ⟨t, stepped, holds, done⟩ |
      ⟨t, stepped, done⟩⟩ := run_succ_cases fuel n s <;> rw [done]
    · exact .at_once (endResult_holdsOf s) fun out => absurd out (endResult_ne_fuelOut s)
    · exact .at_once holds nofun
    · exact .after_step running stepped (.at_once ⟨rfl, fires⟩ nofun)
    · exact .after_step running stepped (.at_once holds nofun)
    · exact (ih (spend n s t) t).after_step running stepped

/-! ### The budget (60_exceptions.md R246) -/

/-- A call with budget `n` that answers `r` and leaves `t` has committed no more than the budget, and all of it where it
answers BUDGET, which an unbounded call does not. -/
def KeepsBudget (n : Option Nat) (s t : State) (r : RunResult) : Prop :=
  match n with
  | none => r ≠ .budget
  | some n => ∃ k, k ≤ n ∧ t.icount = s.icount + BitVec.ofNat 64 k ∧ (r = .budget → k = n)

/-- A call that commits nothing keeps every budget, unless it answers BUDGET. -/
theorem KeepsBudget.of_icount_eq (n : Option Nat) {s t : State} {r : RunResult} (same : t.icount = s.icount)
    (other : r ≠ .budget) : KeepsBudget n s t r := by
  cases n with
  | none => exact other
  | some n => exact ⟨0, Nat.zero_le _, by rw [same, BitVec.add_zero], fun budget => absurd budget other⟩

theorem step_icount {s t : State} (h : step s = .next t) : t.icount = s.icount ∨ t.icount = s.icount + 1 := by
  obtain ⟨-, icount⟩ | ⟨-, -, -, -, icount⟩ := (step_effect h).regs
  · exact .inl icount
  · exact .inr icount

/-- What is spent on a step is what it commits. -/
theorem KeepsBudget.after_step {n : Option Nat} {s u t : State} {r : RunResult} (left : n ≠ some 0)
    (stepped : step s = .next u) (rest : KeepsBudget (spend n s u) u t r) : KeepsBudget n s t r := by
  cases n with
  | none => exact rest
  | some n =>
    have positive : n ≠ 0 := fun zero => left (congrArg some zero)
    unfold spend at rest
    by_cases same : u.icount = s.icount
    · simp only [if_pos same] at rest
      obtain ⟨k, within, counted, whole⟩ := rest
      exact ⟨k, within, by rw [counted, same], whole⟩
    · simp only [if_neg same] at rest
      have committed := (step_icount stepped).resolve_left same
      obtain ⟨k, within, counted, whole⟩ := rest
      refine ⟨k + 1, by omega, ?_, fun budget => by have := whole budget; omega⟩
      rw [counted, committed, BitVec.ofNat_add, BitVec.add_assoc, BitVec.add_comm 1]
      rfl

/-- A call that commits in its only step, with some of the budget left. -/
theorem KeepsBudget.of_step {n : Option Nat} {s t : State} {r : RunResult} (left : n ≠ some 0)
    (stepped : step s = .next t) (other : r ≠ .budget) : KeepsBudget n s t r :=
  .after_step left stepped (.of_icount_eq _ rfl other)

theorem run_keepsBudget (fuel : Nat) (n : Option Nat) (s : State) :
    KeepsBudget n s (run fuel n s).2 (run fuel n s).1 := by
  induction fuel generalizing n s with
  | zero => exact .of_icount_eq n rfl nofun
  | succ fuel ih =>
    obtain ⟨complete, done⟩ | ⟨left, -, ⟨-, done⟩ | ⟨-, stepped, done⟩ | ⟨t, stepped, -, done⟩ | ⟨t, stepped, done⟩⟩ :=
      run_succ_cases fuel n s <;> rw [done]
    · rcases complete with rfl | ended
      · exact ⟨0, Nat.le_refl _, (BitVec.add_zero _).symm, fun _ => rfl⟩
      · exact .of_icount_eq n rfl (endResult_ne_budget ended)
    · exact .of_icount_eq n rfl nofun
    · exact .of_step left stepped nofun
    · exact .of_step left stepped nofun
    · exact (ih (spend n s t) t).after_step left stepped

theorem run_of_no_budget (fuel : Nat) (s : State) : (run fuel (some 0) s).2 = s := by
  cases fuel <;> rfl

/-- Settles O12: by induction on the turns of the loop, for what its answer says and for what it commits. -/
theorem runBudget : Obligations.RunBudget := by
  refine ⟨fun fuel n s t r h => ?_, fun fuel s t r h => ?_⟩
  · have answered := run_answered fuel (some n) s
    have budget := run_keepsBudget fuel (some n) s
    rw [h] at answered budget
    refine ⟨answered, budget, ?_⟩
    rintro rfl
    have unchanged := run_of_no_budget fuel s
    rwa [h] at unchanged
  · have answered := run_answered fuel none s
    have budget := run_keepsBudget fuel none s
    rw [h] at answered budget
    exact ⟨answered, budget⟩

end Sys2Proof.Machine
end

section
/-! PROOFS. Stops in atomic mode (40_execution_step.md R104, 60_exceptions.md R232). -/

namespace Sys2Proof.Machine

/-! ### Every stop of the atomic engine -/

/-- The state `t` that an atomic step from `s` leaves has not stopped in that step, or is `s` with the stop recorded at the
pc and the output kept of an ECALL that asked for PRINT_STRING. -/
def StopsPrecisely (s t : State) (printing : Prop) : Prop :=
  t.stop = s.stop ∨ ∃ e out, t = (s.emit out).raise e s.pc ∧ (out = [] ∨ printing)

theorem StopsPrecisely.of_raise (s : State) (e : StopReason) {printing : Prop} :
    StopsPrecisely s (s.raise e s.pc) printing :=
  .inr ⟨e, [], by rw [State.emit, List.append_nil], .inl rfl⟩

theorem finish_stopsPrecisely {x : Executed} {rd : Reg} {s t : State} {printing : Prop} (h : finish x rd s = .next t) :
    StopsPrecisely s t printing := by
  obtain ⟨v, npc, u, committed, done⟩ | ⟨k, ea, data, m, -, done⟩ | ⟨npc, done⟩ | ⟨e, done⟩ := finish_cases x rd s <;>
    cases done.symm.trans h
  · exact .inl (commit_stop committed :)
  · exact .inl rfl
  · exact .inl rfl
  · exact .of_raise s e

theorem execEcall_stopsPrecisely {s t : State} (h : execEcall s = .next t) :
    StopsPrecisely s t (s.reg s.cfg.sysNumReg = s.cfg.sysno.printString) := by
  unfold execEcall at h
  cases effect : ecallEffect s with
  | holds => rw [effect] at h; cases h; exact .inl rfl
  | stops e out => rw [effect] at h; cases h; exact .inr ⟨e, out, rfl, ecallEffect_stops effect⟩
  | done res u =>
    rw [effect] at h
    cases h
    obtain ⟨-, -, stop, -⟩ := ecallEffect_fields effect
    exact .inl stop

theorem execDecoded_stopsPrecisely {d : Decoded} {s t : State} (h : execDecoded d s = .next t) :
    StopsPrecisely s t (d = .instr .ecall ∧ s.reg s.cfg.sysNumReg = s.cfg.sysno.printString) := by
  cases d with
  | nothing => exact finish_stopsPrecisely (x := .nothing) (rd := 0) h
  | unimplemented => exact finish_stopsPrecisely (x := .nothing) (rd := 0) h
  | instr i =>
    by_cases ecall : i = .ecall
    · subst ecall
      simpa only [true_and] using execEcall_stopsPrecisely h
    · obtain ⟨x, rd, finishes⟩ := exec_finish i s ecall
      exact finish_stopsPrecisely (finishes.symm.trans h)

/-- The instruction at the pc is an ECALL that asks for PRINT_STRING. -/
def State.PrintsString (s : State) : Prop :=
  ∃ w, memFetch s.cfg s.mem s.pc = .ok w ∧ decode w = .instr .ecall ∧ s.reg s.cfg.sysNumReg = s.cfg.sysno.printString

theorem atomicStep_stopsPrecisely {s t : State} (h : atomicStep s = .next t) : StopsPrecisely s t s.PrintsString := by
  unfold atomicStep at h
  split at h
  · rename_i e _
    cases h
    exact .of_raise s e
  · rename_i w fetched
    exact (execDecoded_stopsPrecisely h).imp_right fun ⟨e, out, stopped, kept⟩ =>
      ⟨e, out, stopped, kept.imp_right fun ⟨ecall, number⟩ => ⟨w, fetched, ecall, number⟩⟩

/-- A step of the atomic engine is an atomic step, but for the resumption mark; or nothing, or a pause. -/
theorem step_atomic_cases {s t : State} (mode : s.cfg.mode = .atomic) (h : step s = .next t) :
    (∃ u, atomicStep s = .next u ∧ t = u.endResume) ∨ t = s ∨ t = s.pause := by
  obtain ⟨-, performed⟩ | ⟨-, idle | paused⟩ := step_cases s
  · obtain ⟨u, next, -⟩ := atomicStep_answers s
    have engine : engineStep s = atomicStep s := by rw [engineStep, mode]
    rw [performed, engine, next] at h
    cases h
    exact .inl ⟨u, next, rfl⟩
  · cases idle.symm.trans h
    exact .inr (.inl rfl)
  · cases paused.symm.trans h
    exact .inr (.inr rfl)

/-- Settles O49: a stop of the atomic engine is `StopsPrecisely`, and after it nothing happens. -/
theorem atomicStopsArePrecise : Obligations.AtomicStopsArePrecise := by
  intro s t p mode running h stop
  have idle : step t = .next t := step_of_ended (by simp [State.ended, stop])
  obtain ⟨u, atomic, rfl⟩ | rfl | rfl := step_atomic_cases mode h
  · change u.stop = some p at stop
    obtain same | ⟨e, out, rfl, kept⟩ := atomicStep_stopsPrecisely atomic
    · rw [same, running] at stop; cases stop
    cases stop
    refine ⟨rfl, ?_, kept.imp_left ?_, idle⟩
    · rw [← running]; rfl
    · rintro rfl; exact List.append_nil _
  · rw [running] at stop; cases stop
  · change s.stop = some p at stop
    rw [running] at stop; cases stop

end Sys2Proof.Machine
end

section
/-! PROOFS. The services of ECALL (45_system.md R200, R203-R207): which one is asked for, the string of PRINT_STRING, and
a result that breaks the stack rule. -/

namespace Sys2Proof.Machine

/-! ### The service asked for -/

/-- The number of a service (45_system.md R200). -/
def Service.number (n : ServiceNumbers) : Service → Word
  | .printInt => n.printInt
  | .printChar => n.printChar
  | .printString => n.printString
  | .readInt => n.readInt
  | .readChar => n.readChar
  | .sbrk => n.sbrk
  | .heapBaseQ => n.heapBaseQ
  | .heapMaxQ => n.heapMaxQ
  | .exit => n.exit

/-- Where the numbers are distinct (92_eei_decisions.md D17), each names its service. -/
theorem serviceOf_number {n : ServiceNumbers} (distinct : sysnoInjective n = true) (v : Service) :
    serviceOf n (v.number n) = some v := by
  simp only [sysnoInjective, decide_eq_true_eq, List.nodup_cons, List.mem_cons, not_or] at distinct
  cases v <;> simp [serviceOf, Service.number, distinct, Ne.symm]

theorem serviceOf_of_asksFor {s : State} (v : Service) (asked : s.asksFor (v.number s.cfg.sysno)) :
    serviceOf s.cfg.sysno (s.reg s.cfg.sysNumReg) = some v := by
  obtain ⟨distinct, number⟩ := asked
  rw [number, serviceOf_number distinct]

/-! ### A result that breaks the stack rule -/

/-- A commit the stack rule does not allow stops (40_execution_step.md R99). -/
theorem commit_of_not_allowed {s : State} {r : Reg} {v : Word} (h : commitAllowed s r v = false) :
    commit r v s = .error (.stackExhausted v) := by
  simp only [commitAllowed, Bool.or_eq_false_iff, bne_eq_false_iff_eq, Bool.and_eq_false_iff, decide_eq_false_iff_not,
    Nat.not_le] at h
  obtain ⟨sp, outside⟩ := h
  exact (commitRule s r v).2.1 sp outside

/-- An ECALL that is done but for its result (45_system.md R200), where the result breaks the stack rule. -/
theorem execEcall_of_result_not_allowed {s t : State} {v : Service} {res : Word} (asked : s.asksFor (v.number s.cfg.sysno))
    (served : runService v (s.reg s.cfg.sysArgReg) s = .done res t)
    (breaks : commitAllowed s s.cfg.sysResReg res = false) :
    exec .ecall s = .next (stopped { s with output := s.output ++ keptOutput v s t } (.stackExhausted res)) := by
  have cfg : t.cfg = s.cfg := (runService_done served).1
  have stops : commit s.cfg.sysResReg res t = .error (.stackExhausted res) :=
    commit_of_not_allowed (by simpa only [commitAllowed, cfg] using breaks)
  show execEcall s = _
  simp only [execEcall, ecallEffect, serviceOf_of_asksFor v asked, served, commitResult, stops]
  rfl

/-- The same for every service but PRINT_STRING, which alone keeps output (log 14). -/
theorem execEcall_of_quiet_result_not_allowed {s t : State} {v : Service} {res : Word} (quiet : v ≠ .printString)
    (asked : s.asksFor (v.number s.cfg.sysno)) (served : runService v (s.reg s.cfg.sysArgReg) s = .done res t)
    (breaks : commitAllowed s s.cfg.sysResReg res = false) :
    exec .ecall s = .next (stopped { s with output := s.output ++ [] } (.stackExhausted res)) := by
  rw [execEcall_of_result_not_allowed asked served breaks, keptOutput, if_neg quiet]

/-! ### The string of PRINT_STRING (45_system.md R205) -/

theorem byteAllowed_read (s : State) (a : Nat) : byteAllowed s.cfg s.mem .read a = readableByte s a := by
  unfold byteAllowed readableByte
  cases walk s.cfg s.mem a <;> rfl

theorem readable_iff (s : State) (a n : Nat) : readable s a n = true ↔ ∀ k, k < n → readableByte s (a + k) = true := by
  simp [readable]

/-- A readable byte is read as it is, zero-extended (20_memory.md R46). -/
theorem memRead_byte {s : State} {p : Word} (h : readableByte s p.toNat = true) :
    memRead s.cfg s.mem p 1 = .ok ((loadedByte s p.toNat).setWidth 64) := by
  rw [← byteAllowed_read] at h
  simp only [memRead, firstFault, h, if_true, readLE, loadedByte, Nat.mul_zero, Nat.add_zero, BitVec.ofNat_toNat]

/-- A readable address lies below MAXADDR, so that the next one does not wrap. -/
theorem toNat_succ_of_readableByte {s : State} {p : Word} (h : readableByte s p.toNat = true) :
    (p + 1).toNat = p.toNat + 1 := by
  simp only [readableByte, Bool.and_eq_true, decide_eq_true_eq] at h
  have bound := s.cfg.maxAddr.isLt
  exact BitVec.toNat_add_of_lt (show p.toNat + 1 < 2 ^ 64 by omega)

/-- The `n` bytes from address `a`. -/
def loadedBytes (s : State) (a n : Nat) : List Byte := (List.range n).map fun k => loadedByte s (a + k)

theorem loadedBytes_succ (s : State) (a n : Nat) : loadedBytes s a (n + 1) = loadedByte s a :: loadedBytes s (a + 1) n := by
  simp [loadedBytes, List.range_succ_eq_map, Nat.add_assoc, Nat.add_comm 1]

/-- The walk over a readable byte: it ends at zero, and else goes on after it. -/
theorem stringWalk_of_readableByte {s : State} {p : Word} (fuel : Nat) (h : readableByte s p.toNat = true) :
    stringWalk s.cfg s.mem (fuel + 1) p =
      if loadedByte s p.toNat = 0 then ([], none)
      else (loadedByte s p.toNat :: (stringWalk s.cfg s.mem fuel (p + 1)).1, (stringWalk s.cfg s.mem fuel (p + 1)).2) := by
  have isZero : (loadedByte s p.toNat).setWidth 64 = 0 ↔ loadedByte s p.toNat = 0 := by
    rw [← BitVec.toNat_inj, ← BitVec.toNat_inj, BitVec.toNat_setWidth_of_le (by decide)]
    rfl
  have low : ((loadedByte s p.toNat).setWidth 64).extractLsb' 0 8 = loadedByte s p.toNat := by
    rw [BitVec.extractLsb'_setWidth_of_le (by decide), BitVec.extractLsb'_eq_self]
  simp only [stringWalk, memRead_byte h, isZero, low]

/-- The walk over a string that is readable up to its zero byte gives the bytes before it. -/
theorem stringWalk_of_string {s : State} {p : Word} {n fuel : Nat} (inBound : n < fuel)
    (allowed : ∀ k, k < n + 1 → readableByte s (p.toNat + k) = true)
    (letters : ∀ k, k < n → loadedByte s (p.toNat + k) ≠ 0) (zero : loadedByte s (p.toNat + n) = 0) :
    stringWalk s.cfg s.mem fuel p = (loadedBytes s p.toNat n, none) := by
  induction n generalizing p fuel with
  | zero =>
    obtain ⟨fuel, rfl⟩ : ∃ f, fuel = f + 1 := ⟨fuel - 1, by omega⟩
    rw [stringWalk_of_readableByte fuel (allowed 0 Nat.one_pos)]
    exact if_pos zero
  | succ n ih =>
    obtain ⟨fuel, rfl⟩ : ∃ f, fuel = f + 1 := ⟨fuel - 1, by omega⟩
    have first : readableByte s p.toNat = true := allowed 0 (Nat.succ_pos _)
    have letter : loadedByte s p.toNat ≠ 0 := letters 0 (Nat.succ_pos n)
    have next := toNat_succ_of_readableByte first
    have shift (k : Nat) : (p + 1).toNat + k = p.toNat + (k + 1) := by omega
    have rest : stringWalk s.cfg s.mem fuel (p + 1) = (loadedBytes s (p + 1).toNat n, none) :=
      ih (Nat.lt_of_succ_lt_succ inBound) (fun k lt => shift k ▸ allowed (k + 1) (Nat.succ_lt_succ lt))
        (fun k lt => shift k ▸ letters (k + 1) (Nat.succ_lt_succ lt)) (shift n ▸ zero)
    rw [stringWalk_of_readableByte fuel first, if_neg letter, rest, loadedBytes_succ, next]

/-- PRINT_STRING of a string that is readable up to its zero byte emits the bytes before it: the bound on the walk (log 16)
lies above every readable address. -/
theorem servicePrintString_of_string {s : State} {arg : Word} {n : Nat} (allowed : readable s arg.toNat (n + 1) = true)
    (letters : ∀ k, k < n → loadedByte s (arg.toNat + k) ≠ 0) (zero : loadedByte s (arg.toNat + n) = 0) :
    servicePrintString arg s = .done 0 (s.emit (loadedBytes s arg.toNat n)) := by
  rw [readable_iff] at allowed
  have inBound : n < s.cfg.maxAddr.toNat + 1 := by
    have last := allowed n (Nat.lt_succ_self n)
    simp only [readableByte, Bool.and_eq_true, decide_eq_true_eq] at last
    omega
  simp only [servicePrintString, stringWalk_of_string inBound allowed letters zero]

/-! ### The reads (45_system.md R206, R207) -/

theorem serviceReadInt_of_input {s : State} {v : Word} {vs : List Word} (input : s.input = v :: vs) :
    serviceReadInt s = .done v { s with input := vs } := by
  simp only [serviceReadInt, input]

theorem serviceReadChar_of_input {s : State} {v : Word} {vs : List Word} (input : s.input = v :: vs) :
    serviceReadChar s = .done ((v.extractLsb' 0 8).setWidth 64) { s with input := vs } := by
  simp only [serviceReadChar, input]

/-- Settles O38: each service is done but for its result (`execEcall_of_result_not_allowed`), and PRINT_STRING keeps what it
emitted. -/
theorem ecallResultStops : Obligations.EcallResultStops := by
  intro s res stops arg
  refine ⟨?prints, fun n asked allowed letters zero breaks => ?string, fun v vs input => ⟨?readInt, ?readChar⟩⟩
  case prints =>
    rintro (asked | asked) breaks
    · exact execEcall_of_quiet_result_not_allowed (v := .printInt) nofun asked rfl breaks
    · exact execEcall_of_quiet_result_not_allowed (v := .printChar) nofun asked rfl breaks
  case string =>
    have served := servicePrintString_of_string allowed letters zero
    rw [execEcall_of_result_not_allowed (v := .printString) asked served breaks, keptOutput, if_pos rfl,
      State.emit_output, List.drop_left]
    rfl
  case readInt =>
    intro asked breaks
    exact execEcall_of_quiet_result_not_allowed (v := .readInt) nofun asked (serviceReadInt_of_input input) breaks
  case readChar =>
    intro asked breaks
    exact execEcall_of_quiet_result_not_allowed (v := .readChar) nofun asked (serviceReadChar_of_input input) breaks

end Sys2Proof.Machine
end

section
/-! PROOFS. The results of the integer instructions (41_integer.md R110-R143): an instruction that commits one value has the
whole effect of `Results`; and the value the ALU gives for each operation, written from its rule. -/

namespace Sys2Proof.Machine

/-! ### Committing one value -/

/-- After an allowed commit and the advance to `npc` (40_execution_step.md R99-R101). -/
theorem commit_retire_committedTo {r : Reg} {v : Word} {s t : State} (h : commit r v s = .ok t) (npc : Word) :
    CommittedTo s r v npc (t.retire npc) := by
  exact {
    regs := { commit_regsCommitted h with }
    pages := { commit_pagesCommitted h with }
    counted := ⟨rfl, congrArg (· + 1) (commit_icount h)⟩
    engine := { commit_engineKept h with }
    untouched := { commit_untouched h with } }

/-- An instruction whose Writeback commits `v` and goes on at `npc` (R100, R104). -/
theorem resultsAt_of_writeback {s : State} {i : Instr} {rd : Reg} {v npc : Word} (h : exec i s = writeback rd v npc s) :
    ResultsAt s i rd v npc := by
  refine ⟨fun allowed => ?_, fun breaks => ?_⟩
  · obtain ⟨t, committed⟩ := commit_of_allowed allowed
    exact ⟨t.retire npc, by rw [h, writeback, committed], commit_retire_committedTo committed npc⟩
  · rw [h, writeback, commit_of_not_allowed breaks]
    rfl

/-- An instruction whose Execute gives `v` (R98). -/
theorem results_of_value {s : State} {i : Instr} {rd : Reg} {v : Word} (h : exec i s = finish (.value v) rd s) :
    Results s i rd v :=
  resultsAt_of_writeback h

/-- The operations that can raise ArithmeticFault (42_muldiv.md R151). -/
def AluOp.divides : AluOp → Bool
  | .div | .rem | .divw | .remw => true
  | _ => false

theorem aluFaults_of_not_divides {op : AluOp} (dv : DivOverflow) (a b : Word) (h : op.divides = false) :
    aluFaults dv op a b = false := by
  unfold aluFaults
  split
  · cases h
  · cases h
  · cases h
  · cases h
  · rfl

/-- An instruction that commits what the ALU gives for an operation that does not fault. -/
theorem results_of_alu {s : State} {i : Instr} {rd : Reg} {op : AluOp} {a b v : Word}
    (h : exec i s = finish (aluExecuted s.cfg op a b s.pc) rd s) (quiet : op.divides = false)
    (value : alu s.cfg.wshiftWide op a b = v) : Results s i rd v := by
  rw [aluExecuted, aluFaults_of_not_divides _ a b quiet, value] at h
  exact results_of_value h

/-- Settles O13: the ALU gives these results by its definition (R110). -/
theorem sumAndLogicResults : Obligations.SumAndLogicResults := by
  intro s rd rs1 rs2 imm u
  refine ⟨results_of_value rfl, results_of_value rfl, ?_⟩
  refine ⟨?_, ?_, ?_, ?_, ?_, ?_, ?_, ?_, ?_⟩ <;> exact results_of_alu rfl rfl rfl

/-- Settles O14: the ALU compares the readings the statement names (R113). -/
theorem comparisonResults : Obligations.ComparisonResults := by
  intro s rd rs1 rs2 imm
  exact ⟨results_of_alu rfl rfl rfl, results_of_alu rfl rfl rfl, results_of_alu rfl rfl rfl, results_of_alu rfl rfl rfl⟩

/-! ### Shift amounts (R111, R112) -/

/-- A shift-immediate shifts by bits 5..0 of its field (30_encoding.md R78). -/
theorem shiftAmount_shamtOf (imm : BitVec 12) : shiftAmount ((shamtOf imm).setWidth 64) = imm.toNat % 64 := by
  simp [shiftAmount, shamtOf]

/-- Settles O15: both forms shift by `shiftAmount` of their second operand. -/
theorem shiftResults : Obligations.ShiftResults := by
  intro s rd rs1 rs2 imm
  have amount := shiftAmount_shamtOf imm
  refine ⟨results_of_alu rfl rfl ?_, results_of_alu rfl rfl ?_, results_of_alu rfl rfl ?_,
    results_of_alu rfl rfl rfl, results_of_alu rfl rfl rfl, results_of_alu rfl rfl rfl⟩ <;>
    rw [alu, amount]

/-! ### Word operations -/

theorem low32_eq_setWidth (v : Word) : low32 v = v.setWidth 32 := (BitVec.setWidth_eq_extractLsb' (by decide)).symm

theorem low32_imm12 (imm : BitVec 12) : low32 (imm12 imm) = imm.signExtend 32 := by
  rw [low32_eq_setWidth, imm12]
  ext k lt
  have inWord : k < 64 := by omega
  simp [BitVec.getElem_signExtend, inWord]

theorem low32_add (a b : Word) : low32 (a + b) = low32 a + low32 b := by
  simp only [low32_eq_setWidth, BitVec.setWidth_add a b (show 32 ≤ 64 by decide)]

theorem low32_sub (a b : Word) : low32 (a - b) = low32 a - low32 b := by
  have le : 32 ≤ 64 := by decide
  simp only [low32_eq_setWidth, BitVec.sub_eq_add_neg, BitVec.setWidth_add _ _ le, BitVec.setWidth_neg_of_le le]

/-- Settles O16: taking the low word commutes with sums and differences, and with sign extension of the immediate. -/
theorem wordSumResults : Obligations.WordSumResults := by
  intro s rd rs1 rs2 imm
  simp only [← low32_eq_setWidth, ← low32_imm12]
  exact ⟨results_of_alu rfl rfl (congrArg sext32 (low32_add ..)), results_of_alu rfl rfl (congrArg sext32 (low32_add ..)),
    results_of_alu rfl rfl (congrArg sext32 (low32_sub ..))⟩

/-! ### Word shifts (R112) -/

theorem shiftsOut_iff (c : Config) (n : Nat) : shiftsOut c n = true ↔ c.wshiftWide = .full ∧ 32 ≤ n % 64 := by
  simp [shiftsOut]

section
variable {c : Config} {b : Word} {n : Nat}

/-- A shift that does not shift everything out shifts by the low five bits of its amount. -/
theorem wordShiftAmount_of_not_shiftsOut (amount : shiftAmount b = n % 64) (kept : shiftsOut c n = false) :
    wordShiftAmount c.wshiftWide b = n % 32 := by
  cases ws : c.wshiftWide with
  | mod32 => rw [wordShiftAmount, amount]; omega
  | full =>
    have small : ¬32 ≤ n % 64 := by simpa [shiftsOut, ws] using kept
    rw [wordShiftAmount, amount]
    omega

theorem le_wordShiftAmount_of_shiftsOut (amount : shiftAmount b = n % 64) (out : shiftsOut c n = true) :
    32 ≤ wordShiftAmount c.wshiftWide b := by
  obtain ⟨full, large⟩ := (shiftsOut_iff c n).1 out
  rwa [full, wordShiftAmount, amount]

theorem sllWord_eq_sllwResult (a : Word) (amount : shiftAmount b = n % 64) :
    sllWord c.wshiftWide a b = sllwResult c a n := by
  rw [sllWord, sllwResult, low32_eq_setWidth]
  split
  next out => rw [BitVec.shiftLeft_eq_zero (le_wordShiftAmount_of_shiftsOut amount out)]; rfl
  next kept => rw [wordShiftAmount_of_not_shiftsOut amount (Bool.eq_false_of_not_eq_true kept)]; rfl

theorem srlWord_eq_srlwResult (a : Word) (amount : shiftAmount b = n % 64) :
    srlWord c.wshiftWide a b = srlwResult c a n := by
  rw [srlWord, srlwResult, low32_eq_setWidth]
  split
  next out => rw [BitVec.ushiftRight_eq_zero (le_wordShiftAmount_of_shiftsOut amount out)]; rfl
  next kept => rw [wordShiftAmount_of_not_shiftsOut amount (Bool.eq_false_of_not_eq_true kept)]; rfl

/-- An arithmetic shift by the width or more leaves copies of the top bit. -/
theorem sext32_sshiftRight_of_le (w : BitVec 32) {k : Nat} (large : 32 ≤ k) :
    sext32 (w.sshiftRight k) = if w.msb then 0xFFFFFFFFFFFFFFFF else 0 := by
  cases top : w.msb with
  | true => rw [BitVec.sshiftRight_eq_of_msb_true top, BitVec.ushiftRight_eq_zero large]; rfl
  | false => rw [BitVec.sshiftRight_eq_of_msb_false top, BitVec.ushiftRight_eq_zero large]; rfl

theorem sraWord_eq_srawResult (a : Word) (amount : shiftAmount b = n % 64) :
    sraWord c.wshiftWide a b = srawResult c a n := by
  rw [sraWord, srawResult, low32_eq_setWidth]
  split
  next out =>
    rw [sext32_sshiftRight_of_le _ (le_wordShiftAmount_of_shiftsOut amount out), BitVec.msb_setWidth]
    rfl
  next kept => rw [wordShiftAmount_of_not_shiftsOut amount (Bool.eq_false_of_not_eq_true kept)]; rfl

end

/-- The three word shifts of `a` by `n`, as instructions that take `n` from a register or from their field. -/
theorem wordShift_results {s : State} {left right arith : Instr} {rd : Reg} {a b : Word} {n : Nat}
    (execLeft : exec left s = finish (aluExecuted s.cfg .sllw a b s.pc) rd s)
    (execRight : exec right s = finish (aluExecuted s.cfg .srlw a b s.pc) rd s)
    (execArith : exec arith s = finish (aluExecuted s.cfg .sraw a b s.pc) rd s) (amount : shiftAmount b = n % 64) :
    (¬(s.cfg.wshiftWide = .full ∧ 32 ≤ n % 64) →
      Results s left rd ((a.setWidth 32 <<< (n % 32)).signExtend 64) ∧
      Results s right rd ((a.setWidth 32 >>> (n % 32)).signExtend 64) ∧
      Results s arith rd (((a.setWidth 32).sshiftRight (n % 32)).signExtend 64)) ∧
    (s.cfg.wshiftWide = .full ∧ 32 ≤ n % 64 →
      Results s left rd 0 ∧ Results s right rd 0 ∧
      Results s arith rd (if a.getLsbD 31 then 0xFFFFFFFFFFFFFFFF else 0)) := by
  have results : Results s left rd (sllwResult s.cfg a n) ∧ Results s right rd (srlwResult s.cfg a n) ∧
      Results s arith rd (srawResult s.cfg a n) :=
    ⟨results_of_alu execLeft rfl (sllWord_eq_sllwResult a amount),
      results_of_alu execRight rfl (srlWord_eq_srlwResult a amount),
      results_of_alu execArith rfl (sraWord_eq_srawResult a amount)⟩
  simp only [sllwResult, srlwResult, srawResult, shiftsOut_iff] at results
  exact ⟨fun kept => by simpa only [if_neg kept] using results, fun out => by simpa only [if_pos out] using results⟩

/-- Settles O17: the immediate and the register forms are both `wordShift_results`. -/
theorem wordShiftResults : Obligations.WordShiftResults := by
  intro s rd rs1 rs2 imm
  obtain ⟨immKept, immOut⟩ := wordShift_results (s := s) (left := .slliw rd rs1 imm) (right := .srliw rd rs1 imm)
    (arith := .sraiw rd rs1 imm) rfl rfl rfl (shiftAmount_shamtOf imm)
  obtain ⟨regKept, regOut⟩ := wordShift_results (s := s) (left := .sllw rd rs1 rs2) (right := .srlw rd rs1 rs2)
    (arith := .sraw rd rs1 rs2) rfl rfl rfl rfl
  exact ⟨immKept, immOut, regKept, regOut⟩

end Sys2Proof.Machine
end

section
/-! PROOFS. The results and the one stop of the multiply and divide instructions (42_muldiv.md R150-R166): each operation's
value as a bit-vector operation; the operands for which it stops; and the obligations, as for the other ALU instructions. -/

namespace Sys2Proof.Machine

/-! ### Products (R150) -/

/-- The shift is by case on the sign of `p`, and in both cases a division that rounds down. -/
theorem highHalf_eq_ediv (p : Int) : highHalf p = BitVec.ofInt 64 (p / 2 ^ 64) := by
  cases p with
  | ofNat n => exact congrArg (BitVec.ofInt 64) (Int.shiftRight_eq_div_pow (.ofNat n) 64)
  | negSucc n => exact congrArg (BitVec.ofInt 64) (Int.shiftRight_eq_div_pow (.negSucc n) 64)

/-- The high half of an exact product is bits 127..64 of it modulo 2^128. -/
theorem highHalf_eq_extractLsb' (p : Int) : highHalf p = (BitVec.ofInt 128 p).extractLsb' 64 64 := by
  apply BitVec.eq_of_toNat_eq
  rw [highHalf_eq_ediv, BitVec.toNat_ofInt, BitVec.extractLsb'_toNat, BitVec.toNat_ofInt, Nat.shiftRight_eq_div_pow]
  omega

theorem highHalf_mul (x y : Int) :
    highHalf (x * y) = (BitVec.ofInt 128 x * BitVec.ofInt 128 y).extractLsb' 64 64 := by
  rw [highHalf_eq_extractLsb', BitVec.ofInt_mul]

theorem ofInt_toNat (w : Nat) (a : Word) : BitVec.ofInt w (a.toNat : Int) = a.setWidth w := by
  rw [BitVec.ofInt_natCast, BitVec.ofNat_toNat]

theorem low32_mul (a b : Word) : low32 (a * b) = low32 a * low32 b := by
  simp only [low32_eq_setWidth, BitVec.setWidth_mul a b (show 32 ≤ 64 by decide)]

/-- Settles O18: the exact products of the operands' readings, taken modulo 2^128 or 2^64 (R154-R158). -/
theorem multiplyResults : Obligations.MultiplyResults := by
  intro s rd rs1 rs2
  simp only [← low32_eq_setWidth, ← ofInt_toNat 128]
  exact ⟨results_of_alu rfl rfl (by rw [alu, BitVec.ofInt_mul, BitVec.ofInt_toInt, BitVec.ofInt_toInt]),
    results_of_alu rfl rfl (highHalf_mul ..), results_of_alu rfl rfl (highHalf_mul ..),
    results_of_alu rfl rfl (highHalf_mul ..), results_of_alu rfl rfl (congrArg sext32 (low32_mul ..))⟩

/-! ### Quotients and remainders (R150, R151) -/

/-- The quotient rounded toward zero, modulo 2^w; also for the overflow, and by zero. -/
theorem ofInt_tdiv {w : Nat} (a b : BitVec w) : BitVec.ofInt w (a.toInt.tdiv b.toInt) = a.sdiv b := by
  apply BitVec.eq_of_toInt_eq
  rw [BitVec.toInt_ofInt, BitVec.toInt_sdiv]

theorem ofInt_tmod {w : Nat} (a b : BitVec w) : BitVec.ofInt w (a.toInt.tmod b.toInt) = a.srem b := by
  rw [← BitVec.toInt_srem, BitVec.ofInt_toInt]

section
variable (a b : Word)

theorem divOverflows_iff : divOverflows a b = true ↔ a = 0x8000000000000000 ∧ b = 0xFFFFFFFFFFFFFFFF := by
  simp [divOverflows, allOnes]

theorem divOverflowsWord_iff :
    divOverflowsWord a b = true ↔ low32 a = 0x80000000#32 ∧ low32 b = 0xFFFFFFFF#32 := by
  simp [divOverflowsWord]

theorem divSigned_eq_sdiv : divSigned a b = if b = 0 then 0xFFFFFFFFFFFFFFFF else a.sdiv b := by
  unfold divSigned
  split_ifs with zero overflows
  · rfl
  · obtain ⟨rfl, rfl⟩ := (divOverflows_iff a b).1 overflows
    rfl
  · exact ofInt_tdiv a b

theorem remSigned_eq_srem : remSigned a b = if b = 0 then a else a.srem b := by
  unfold remSigned
  split_ifs with zero overflows
  · rfl
  · obtain ⟨rfl, rfl⟩ := (divOverflows_iff a b).1 overflows
    rfl
  · exact ofInt_tmod a b

theorem divUnsigned_eq_udiv : divUnsigned a b = if b = 0 then 0xFFFFFFFFFFFFFFFF else a / b := by
  rw [divUnsigned, BitVec.udiv_def]
  rfl

theorem remUnsigned_eq_umod : remUnsigned a b = if b = 0 then a else a % b := by
  rw [remUnsigned, BitVec.umod_def]

theorem divSignedWord_eq_sdiv :
    divSignedWord a b = if low32 b = 0 then 0xFFFFFFFFFFFFFFFF else sext32 ((low32 a).sdiv (low32 b)) := by
  unfold divSignedWord
  split_ifs with zero overflows
  · rfl
  · obtain ⟨dividend, divisor⟩ := (divOverflowsWord_iff a b).1 overflows
    rw [dividend, divisor]
    rfl
  · rw [ofInt_tdiv]

theorem remSignedWord_eq_srem :
    remSignedWord a b = if low32 b = 0 then sext32 (low32 a) else sext32 ((low32 a).srem (low32 b)) := by
  unfold remSignedWord
  split_ifs with zero overflows
  · rfl
  · obtain ⟨dividend, divisor⟩ := (divOverflowsWord_iff a b).1 overflows
    rw [dividend, divisor]
    rfl
  · rw [ofInt_tmod]

theorem divUnsignedWord_eq_udiv :
    divUnsignedWord a b = if low32 b = 0 then 0xFFFFFFFFFFFFFFFF else sext32 (low32 a / low32 b) := by
  rw [divUnsignedWord, BitVec.udiv_def]
  rfl

theorem remUnsignedWord_eq_umod :
    remUnsignedWord a b = if low32 b = 0 then sext32 (low32 a) else sext32 (low32 a % low32 b) := by
  rw [remUnsignedWord, BitVec.umod_def]

end

/-! ### The operands that stop a signed division (R151) -/

section
variable (s : State) (a b : Word)

theorem aluFaults_div_rem : aluFaults s.cfg.divOvf .div a b = divStops s a b ∧
    aluFaults s.cfg.divOvf .rem a b = divStops s a b := by
  unfold divStops
  cases s.cfg.divOvf <;> exact ⟨rfl, rfl⟩

theorem aluFaults_divw_remw : aluFaults s.cfg.divOvf .divw a b = divStopsWord s a b ∧
    aluFaults s.cfg.divOvf .remw a b = divStopsWord s a b := by
  unfold divStopsWord
  simp only [← low32_eq_setWidth]
  cases s.cfg.divOvf <;> exact ⟨rfl, rfl⟩

theorem divStops_iff : divStops s a b = true ↔
    s.cfg.divOvf = .fault ∧ a = 0x8000000000000000 ∧ b = 0xFFFFFFFFFFFFFFFF := by
  simp [divStops, and_assoc]

theorem divStopsWord_iff : divStopsWord s a b = true ↔
    s.cfg.divOvf = .fault ∧ a.setWidth 32 = 0x80000000#32 ∧ b.setWidth 32 = 0xFFFFFFFF#32 := by
  simp [divStopsWord, and_assoc]

end

section
variable {s : State} {i : Instr} {rd : Reg} {op : AluOp} {a b v : Word}

/-- An instruction that commits what the ALU gives for operands that do not fault. -/
theorem results_of_alu_of_not_faults (h : exec i s = finish (aluExecuted s.cfg op a b s.pc) rd s)
    (quiet : aluFaults s.cfg.divOvf op a b = false) (value : alu s.cfg.wshiftWide op a b = v) : Results s i rd v := by
  rw [aluExecuted, quiet, value] at h
  exact results_of_value h

/-- An instruction whose ALU operation faults on its operands stops and has no other effect. -/
theorem exec_of_alu_faults (h : exec i s = finish (aluExecuted s.cfg op a b s.pc) rd s)
    (faults : aluFaults s.cfg.divOvf op a b = true) : exec i s = .next (stopped s (.arithmeticFault s.pc)) := by
  rw [h, aluExecuted, faults]
  rfl

/-- An instruction that commits one value can stop only on the stack rule. -/
theorem Results.noOtherStop (h : Results s i rd v) : (∃ t, exec i s = .next t ∧ t.stop = s.stop) ∨
    ∃ v, commitAllowed s rd v = false ∧ exec i s = .next (stopped s (.stackExhausted v)) := by
  obtain ⟨commits, stops⟩ := h
  cases allowed : commitAllowed s rd v with
  | true =>
    obtain ⟨t, executed, effect⟩ := commits allowed
    exact .inl ⟨t, executed, effect.engine.stop⟩
  | false => exact .inr ⟨v, allowed, stops allowed⟩

end

/-! ### The obligations -/

/-- Settles O19: the ALU's values are the library's division, and the premise says that it does not fault (R159-R162). -/
theorem divideResults : Obligations.DivideResults := by
  intro s rd rs1 rs2
  obtain ⟨divFaults, remFaults⟩ := aluFaults_div_rem s (s.reg rs1) (s.reg rs2)
  exact ⟨fun quiet =>
      ⟨results_of_alu_of_not_faults rfl (divFaults.trans quiet) (divSigned_eq_sdiv ..),
        results_of_alu_of_not_faults rfl (remFaults.trans quiet) (remSigned_eq_srem ..)⟩,
    results_of_alu rfl rfl (divUnsigned_eq_udiv ..), results_of_alu rfl rfl (remUnsigned_eq_umod ..)⟩

/-- Settles O20: as O19, on the low words (R163-R166). -/
theorem wordDivideResults : Obligations.WordDivideResults := by
  intro s rd rs1 rs2
  obtain ⟨divwFaults, remwFaults⟩ := aluFaults_divw_remw s (s.reg rs1) (s.reg rs2)
  simp only [← low32_eq_setWidth]
  exact ⟨fun quiet =>
      ⟨results_of_alu_of_not_faults rfl (divwFaults.trans quiet) (divSignedWord_eq_sdiv ..),
        results_of_alu_of_not_faults rfl (remwFaults.trans quiet) (remSignedWord_eq_srem ..)⟩,
    results_of_alu rfl rfl (divUnsignedWord_eq_udiv ..), results_of_alu rfl rfl (remUnsignedWord_eq_umod ..)⟩

/-- Settles O21: under RISCV the overflow is one of the results of O19 and O20; under FAULT the ALU faults on it alone; and
an instruction that has results stops only on the stack rule (`Results.noOtherStop`). -/
theorem signedDivisionOverflow : Obligations.SignedDivisionOverflow := by
  intro s rd rs1 rs2
  obtain ⟨divFaults, remFaults⟩ := aluFaults_div_rem s (s.reg rs1) (s.reg rs2)
  obtain ⟨divwFaults, remwFaults⟩ := aluFaults_divw_remw s (s.reg rs1) (s.reg rs2)
  obtain ⟨mul, mulh, mulhsu, mulhu, mulw⟩ := multiplyResults s rd rs1 rs2
  obtain ⟨signed, divu, remu⟩ := divideResults s rd rs1 rs2
  obtain ⟨signedWord, divuw, remuw⟩ := wordDivideResults s rd rs1 rs2
  rw [← Bool.not_eq_true, divStops_iff] at signed
  rw [← Bool.not_eq_true, divStopsWord_iff] at signedWord
  refine ⟨fun riscv => ⟨?_, ?_⟩, fun fault => ⟨fun wide => ?_, fun low => ?_⟩, ?_, ?_, ?_⟩
  · rintro ⟨dividend, divisor⟩
    have results := signed (by simp [riscv])
    rwa [dividend, divisor] at results
  · rintro ⟨dividend, divisor⟩
    have results := signedWord (by simp [riscv])
    rwa [dividend, divisor] at results
  · have faults := (divStops_iff ..).2 ⟨fault, wide⟩
    exact ⟨exec_of_alu_faults rfl (divFaults.trans faults), exec_of_alu_faults rfl (remFaults.trans faults)⟩
  · have faults := (divStopsWord_iff ..).2 ⟨fault, low⟩
    exact ⟨exec_of_alu_faults rfl (divwFaults.trans faults), exec_of_alu_faults rfl (remwFaults.trans faults)⟩
  · simp only [List.forall_mem_cons]
    exact ⟨mul.noOtherStop, mulh.noOtherStop, mulhsu.noOtherStop, mulhu.noOtherStop, mulw.noOtherStop,
      divu.noOtherStop, remu.noOtherStop, divuw.noOtherStop, remuw.noOtherStop, nofun⟩
  · exact fun quiet => (signed quiet).imp (·.noOtherStop) (·.noOtherStop)
  · exact fun quiet => (signedWord quiet).imp (·.noOtherStop) (·.noOtherStop)

end Sys2Proof.Machine
end

section
/-! PROOFS. The loads (43_loads_stores.md R170, R171, R173-R179, 20_memory.md R44-R46): the little-endian value a load reads,
what it commits, and the byte it stops at. -/

namespace Sys2Proof.Machine

/-! ### The value read (R44, R46) -/

/-- One more byte below a value. -/
theorem readLE_succ_eq_toNat {s : State} {a n w : Nat} {x : BitVec w} (h : readLE s.cfg s.mem (a + 1) n = x.toNat) :
    readLE s.cfg s.mem a (n + 1) = (x ++ loadedByte s a).toNat := by
  rw [readLE, h, toNat_append_byte, loadedByte]

theorem readLE_one (s : State) (a : Nat) : readLE s.cfg s.mem a 1 = (loadedByte s a).toNat := by
  simp [readLE, loadedByte]

theorem readLE_two (s : State) (a : Nat) :
    readLE s.cfg s.mem a 2 = (loadedByte s (a + 1) ++ loadedByte s a).toNat :=
  readLE_succ_eq_toNat (readLE_one s (a + 1))

theorem readLE_four_bytes (s : State) (a : Nat) :
    readLE s.cfg s.mem a 4 =
      (loadedByte s (a + 3) ++ loadedByte s (a + 2) ++ loadedByte s (a + 1) ++ loadedByte s a).toNat :=
  readLE_succ_eq_toNat (readLE_succ_eq_toNat (readLE_two s (a + 2)))

theorem readLE_eight (s : State) (a : Nat) :
    readLE s.cfg s.mem a 8 =
      (loadedByte s (a + 7) ++ loadedByte s (a + 6) ++ loadedByte s (a + 5) ++ loadedByte s (a + 4) ++
        loadedByte s (a + 3) ++ loadedByte s (a + 2) ++ loadedByte s (a + 1) ++ loadedByte s a).toNat :=
  readLE_succ_eq_toNat <| readLE_succ_eq_toNat <| readLE_succ_eq_toNat <| readLE_succ_eq_toNat <|
    readLE_four_bytes s (a + 4)

/-- A read whose bytes are readable gives their value, zero-extended. -/
theorem memRead_of_readable {s : State} {ea : Word} {n w : Nat} {x : BitVec w} (h : readable s ea.toNat n = true)
    (value : readLE s.cfg s.mem ea.toNat n = x.toNat) : memRead s.cfg s.mem ea n = .ok (x.setWidth 64) := by
  simp only [readable_iff, ← byteAllowed_read] at h
  simp only [memRead, (firstFault_eq_none ..).2 h, value, BitVec.ofNat_toNat]

/-- The lowest byte that may not be read is the one a read names (R45). -/
theorem memRead_of_fault {s : State} {ea : Word} {n k : Nat} (lower : readable s ea.toNat k = true)
    (fault : readableByte s (ea.toNat + k) = false) (inside : k < n) :
    memRead s.cfg s.mem ea n = .error (.memoryFault .read (BitVec.ofNat 64 (ea.toNat + k))) := by
  simp only [readable_iff, ← byteAllowed_read] at lower fault
  simp only [memRead, (firstFault_eq_some ..).2 ⟨k, inside, rfl, fault, lower⟩]

/-! ### The extension (R171) -/

/-- The 64-bit value a load of kind `k` makes of the bytes it read (R171). -/
def LoadKind.widened : (k : LoadKind) → BitVec (8 * k.bytes) → Word
  | .lb, x | .lh, x | .lw, x => x.signExtend 64
  | .ld, x => x
  | .lbu, x | .lhu, x | .lwu, x => x.setWidth 64

theorem extractLsb'_setWidth_self {w : Nat} (x : BitVec w) (le : w ≤ 64) : (x.setWidth 64).extractLsb' 0 w = x := by
  rw [BitVec.extractLsb'_setWidth_of_le (by omega), BitVec.extractLsb'_eq_self]

/-- The model extends a 64-bit word, which `memRead` has widened with zeros. -/
theorem LoadKind.extend_setWidth (k : LoadKind) (x : BitVec (8 * k.bytes)) : k.extend (x.setWidth 64) = k.widened x := by
  cases k with
  | lb | lh | lw => exact congrArg (BitVec.signExtend 64) (extractLsb'_setWidth_self x (by decide))
  | ld => exact BitVec.setWidth_eq x
  | lbu | lhu | lwu => exact congrArg (BitVec.setWidth 64) (extractLsb'_setWidth_self x (by decide))

/-! ### Memory and Writeback of a load -/

/-- A load whose bytes are readable commits their value, extended. -/
theorem results_of_load {s : State} {i : Instr} {k : LoadKind} {ea : Word} {rd : Reg} {x : BitVec (8 * k.bytes)}
    (h : exec i s = finishLoad k ea rd s) (allowed : readable s ea.toNat k.bytes = true)
    (value : readLE s.cfg s.mem ea.toNat k.bytes = x.toNat) : Results s i rd (k.widened x) :=
  resultsAt_of_writeback (by rw [h, finishLoad, memRead_of_readable allowed value, ← k.extend_setWidth]; rfl)

/-- A load with an unreadable byte stops at the lowest one and does nothing else, whatever its destination. -/
theorem finishLoad_faults {k : LoadKind} {ea : Word} (rd : Reg) {s : State} {i : Nat}
    (lower : readable s ea.toNat i = true) (fault : readableByte s (ea.toNat + i) = false) (inside : i < k.bytes) :
    finishLoad k ea rd s = .next (stopped s (.memoryFault .read (BitVec.ofNat 64 (ea.toNat + i)))) := by
  rw [finishLoad, memRead_of_fault lower fault inside]
  rfl

/-- Settles O22: each load is `finishLoad` at its address, and `readLE` is its bytes put together. -/
theorem loadDataPath : Obligations.LoadDataPath := by
  intro s rd rs1 imm a b
  refine ⟨fun one => ⟨?_, ?_⟩, fun two => ⟨?_, ?_⟩, fun four => ⟨?_, ?_⟩, fun eight => ?_,
    fun i lower fault => ⟨fun inside => ⟨?_, ?_⟩, fun inside => ⟨?_, ?_⟩, fun inside => ⟨?_, ?_⟩, ?_⟩⟩
  · exact results_of_load (k := .lb) rfl one (readLE_one s a)
  · exact results_of_load (k := .lbu) rfl one (readLE_one s a)
  · exact results_of_load (k := .lh) rfl two (readLE_two s a)
  · exact results_of_load (k := .lhu) rfl two (readLE_two s a)
  · exact results_of_load (k := .lw) rfl four (readLE_four_bytes s a)
  · exact results_of_load (k := .lwu) rfl four (readLE_four_bytes s a)
  · exact results_of_load (k := .ld) rfl eight (readLE_eight s a)
  · exact finishLoad_faults (k := .lb) rd lower fault inside
  · exact finishLoad_faults (k := .lbu) rd lower fault inside
  · exact finishLoad_faults (k := .lh) rd lower fault inside
  · exact finishLoad_faults (k := .lhu) rd lower fault inside
  · exact finishLoad_faults (k := .lw) rd lower fault inside
  · exact finishLoad_faults (k := .lwu) rd lower fault inside
  · exact finishLoad_faults (k := .ld) rd lower fault

end Sys2Proof.Machine
end

section
/-! PROOFS. The jumps and branches (44_control.md R185-R196): the link and the target of a jump, where a branch goes, and the
stop of the next fetch at a misaligned target (R186). -/

namespace Sys2Proof.Machine

/-! ### What a jump and a branch do -/

/-- The Writeback of JAL commits the link value and goes on at the target (R189). -/
theorem jal_resultsAt (s : State) (rd : Reg) (off : BitVec 21) :
    ResultsAt s (.jal rd off) rd (s.pc + 4) (s.pc + off.signExtend 64) :=
  resultsAt_of_writeback rfl

/-- The target of JALR is Execute's, from the base before the commit; the mask is `~~~1` written out (R187, R190). -/
theorem jalr_resultsAt (s : State) (rd rs1 : Reg) (imm : BitVec 12) :
    ResultsAt s (.jalr rd rs1 imm) rd (s.pc + 4) ((s.reg rs1 + imm.signExtend 64) &&& 0xFFFFFFFFFFFFFFFE) :=
  resultsAt_of_writeback rfl

/-- Settles O27: one commit and a target for each jump, `jal_resultsAt` and `jalr_resultsAt`. -/
theorem jumpResults : Obligations.JumpResults := by
  intro s rd rs1 off imm
  exact ⟨jal_resultsAt s rd off, jalr_resultsAt s rd rs1 imm⟩

/-- BGE is taken where BLT is not (R194). -/
theorem takenBge_eq_not_slt (a b : Word) : takenBge a b = !a.slt b := by
  rw [takenBge, BitVec.slt_eq_decide, ← decide_not, decide_eq_decide, Int.not_lt]

/-- Each branch goes where its condition sends it (R185). -/
theorem exec_of_mem_branchConditions (s : State) (rs1 rs2 : Reg) (off : BitVec 13) :
    ∀ p ∈ branchConditions rs1 rs2 off (s.reg rs1) (s.reg rs2),
      exec p.1 s = .next (s.retire (if p.2 then s.pc + off.signExtend 64 else s.pc + 4)) := by
  simp only [branchConditions, List.forall_mem_cons, ← takenBge_eq_not_slt]
  exact ⟨rfl, rfl, rfl, rfl, rfl, rfl, nofun⟩

/-- Settles O28: `exec_of_mem_branchConditions`, branch by branch. -/
theorem branchResults : Obligations.BranchResults := by
  intro s rs1 rs2 off
  have goes := exec_of_mem_branchConditions s rs1 rs2 off
  simp only [branchConditions, List.forall_mem_cons] at goes
  obtain ⟨beq, bne, blt, bge, bltu, bgeu, -⟩ := goes
  exact ⟨beq, bne, blt, bge, bltu, bgeu⟩

/-! ### Targets are even -/

theorem toNat_mod_two_of_getLsbD_zero {v : Word} (h : v.getLsbD 0 = false) : v.toNat % 2 = 0 := by
  rw [← BitVec.testBit_toNat, Nat.testBit_zero, decide_eq_false_iff_not] at h
  omega

/-- A word is fetched from a multiple of 4 (20_memory.md R48). -/
theorem State.fetches.aligned {s : State} {w : InstWord} (fetched : s.fetches w) : s.pc.toNat % 4 = 0 := by
  obtain ⟨-, -, word⟩ := fetched
  by_contra misaligned
  rw [(fetchRule.1 s.cfg s.mem s.pc).1 misaligned] at word
  cases word

/-- A target at an even offset from an aligned pc. -/
theorem offset_target_even {n : Nat} {pc : Word} {off : BitVec (n + 1)} (aligned : pc.toNat % 4 = 0)
    (even : off.getLsbD 0 = false) : (pc + off.signExtend 64).toNat % 2 = 0 := by
  have offset : (off.signExtend 64).toNat % 2 = 0 :=
    toNat_mod_two_of_getLsbD_zero (by rw [getLsbD_signExtend_field off (by decide), Nat.zero_min, even])
  rw [BitVec.toNat_add]
  omega

/-- JALR clears bit 0 of its target (R187). -/
theorem jalr_target_even (v : Word) : (v &&& 0xFFFFFFFFFFFFFFFE).toNat % 2 = 0 :=
  toNat_mod_two_of_getLsbD_zero (by rw [BitVec.getLsbD_and, Bool.and_eq_false_iff]; exact .inr rfl)

/-- The offset of a branch that some word decodes to is even (30_encoding.md R75). -/
theorem branch_offset_even {w : InstWord} {rs1 rs2 : Reg} {off : BitVec 13} {a b : Word} {p : Instr × Bool}
    (branch : p ∈ branchConditions rs1 rs2 off a b) (decoded : decode w = .instr p.1) : off.getLsbD 0 = false := by
  have wf : ∀ p ∈ branchConditions rs1 rs2 off a b, p.1.WellFormed = !off.getLsbD 0 := by
    simp only [branchConditions, List.forall_mem_cons]
    exact ⟨rfl, rfl, rfl, rfl, rfl, rfl, nofun⟩
  rw [← Bool.not_eq_true', ← wf p branch]
  exact (encodeOfDecode w p.1 decoded).1

/-- The offset of a JAL that some word decodes to is even (30_encoding.md R77). -/
theorem jal_offset_even {w : InstWord} {rd : Reg} {off : BitVec 21} (decoded : decode w = .instr (.jal rd off)) :
    off.getLsbD 0 = false := by
  rw [← Bool.not_eq_true']
  exact (encodeOfDecode w _ decoded).1

/-! ### The step that transfers control, and the fetch after it (R186) -/

/-- A run that fetches a word has not ended and does not hold (40_execution_step.md R102). -/
theorem State.fetches.ended_and_hold {s : State} {w : InstWord} (fetched : s.fetches w) :
    s.ended = false ∧ s.hold = false := by
  obtain ⟨-, running, -⟩ := fetched
  simp only [State.runs, Bool.and_eq_true, Bool.not_eq_true'] at running
  obtain ⟨live, -⟩ := running
  exact live

/-- The step from `t`, or the one after the pause of a breakpoint there, stops with FetchMisaligned at `target`. -/
def StopsNextFetch (t : State) (target : Word) : Prop :=
  target.toNat % 4 = 2 ∧ t.pc = target ∧
    ∀ u, (u = t ∧ t.atCheckPoint = false) ∨ u = { t with resuming := true } →
      step u = .next { t with stop := some { reason := .fetchMisaligned target, instPc := target } }

section
variable {s t : State} {w : InstWord} {i : Instr} {target : Word}

/-- The step of an instruction that changes none of the engine's registers, HOLD among them, ends a resumption. -/
theorem step_of_exec_next (fetched : s.fetches w) (decoded : decode w = .instr i) (executed : exec i s = .next t)
    (engine : EngineKept s t) : step s = .next { t with resuming := false } := by
  obtain ⟨-, hold⟩ := fetched.ended_and_hold
  have notHeld : t.hold = false := by rw [engine.hold, hold]
  rw [stepRunsDecoded s w i fetched decoded, executed]
  simp [notHeld]

/-- An instruction that leaves the machine running at a misaligned even target: the next fetch stops. -/
theorem stopsNextFetch_of_counted (fetched : s.fetches w) (counted : Counted s target t) (engine : EngineKept s t)
    (cfg : t.cfg = s.cfg) (even : target.toNat % 2 = 0) (misaligned : target.toNat % 4 ≠ 0) :
    StopsNextFetch { t with resuming := false } target := by
  obtain ⟨rfl, -⟩ := counted
  obtain ⟨ended, hold⟩ := fetched.ended_and_hold
  obtain ⟨mode, -, -⟩ := fetched
  have atomic : t.cfg.mode = .atomic := by rw [cfg, mode]
  have goesOn : t.ended = false := by rwa [State.ended, engine.finished, engine.stop]
  have notHeld : t.hold = false := by rw [engine.hold, hold]
  have stops := (fetchRule.1 t.cfg t.mem t.pc).1 misaligned
  refine ⟨by omega, rfl, ?_⟩
  rintro u (⟨rfl, unpaused⟩ | rfl)
  · exact step_of_fetch_error atomic (runs_of_unpaused goesOn notHeld (.inl unpaused)) stops
  · exact step_of_fetch_error atomic (runs_of_unpaused goesOn notHeld (.inr rfl)) stops

/-- A jump with a misaligned target commits its link and goes there; the fetch there stops. -/
theorem jump_stopsNextFetch {rd : Reg} {link : Word} (fetched : s.fetches w) (decoded : decode w = .instr i)
    (results : ResultsAt s i rd link target) (even : target.toNat % 2 = 0) (misaligned : target.toNat % 4 ≠ 0)
    (allowed : commitAllowed s rd link = true) :
    ∃ t, CommittedTo s rd link target t ∧ step s = .next { t with resuming := false } ∧
      StopsNextFetch { t with resuming := false } target := by
  obtain ⟨t, executed, done⟩ := results.1 allowed
  exact ⟨t, done, step_of_exec_next fetched decoded executed done.engine,
    stopsNextFetch_of_counted fetched done.counted done.engine done.untouched.cfg even misaligned⟩

end

/-- Settles O29: every target is even, so one that is no multiple of 4 is 2 modulo 4; the transfer leaves the machine
running there (`jump_stopsNextFetch`, `exec_of_mem_branchConditions`). -/
theorem misalignedTargetStopsNextFetch : Obligations.MisalignedTargetStopsNextFetch := by
  intro s w fetched
  refine ⟨fun rd off decoded => ?jal, fun rd rs1 imm decoded => ?jalr, ?branch⟩
  case jal =>
    exact jump_stopsNextFetch fetched decoded (jal_resultsAt s rd off)
      (offset_target_even fetched.aligned (jal_offset_even decoded))
  case jalr =>
    exact jump_stopsNextFetch fetched decoded (jalr_resultsAt s rd rs1 imm) (jalr_target_even _)
  case branch =>
    intro rs1 rs2 off p branch decoded taken target misaligned
    have executed : exec p.1 s = .next (s.retire target) := by
      rw [exec_of_mem_branchConditions s rs1 rs2 off p branch, if_pos taken]
    have engine : EngineKept s (s.retire target) := ⟨rfl, rfl, rfl, rfl, rfl, rfl, rfl⟩
    exact ⟨step_of_exec_next fetched decoded executed engine,
      stopsNextFetch_of_counted fetched ⟨rfl, rfl⟩ engine rfl
        (offset_target_even fetched.aligned (branch_offset_even branch decoded)) misaligned⟩

end Sys2Proof.Machine
end

section
/-! PROOFS. What an ECALL does (45_system.md R200-R207, R209-R212): the whole effect of a service that is done, the decimal of
PRINT_INT, the string of PRINT_STRING that cannot be read to its end, the hold, and a number of no service; and EBREAK
(R213). -/

namespace Sys2Proof.Machine

/-! ### An ECALL that is done (R200) -/

/-- FINISHED after the result commit, set by EXIT alone (R211). -/
def Service.endRun (v : Service) (s : State) : State := { s with finished := if v = .exit then true else s.finished }

/-- The whole effect of an ECALL asked for in `s`, where service `v` gave `res` and left `u` before the result commit. -/
structure ServedTo (s u : State) (v : Service) (res : Word) (t : State) : Prop where
  executed  : exec .ecall s = .next t
  regs      : RegsCommitted s s.cfg.sysResReg res t
  pages     : PagesCommitted u s.cfg.sysResReg res t
  counted   : Counted s (s.pc + 4) t
  engine    : EngineKept (v.endRun u) t
  untouched : Untouched s t

/-- The result commit comes after the service, and FINISHED and the advance after the commit. -/
theorem execEcall_of_commit {s u w : State} {v : Service} {res : Word} (asked : s.asksFor (v.number s.cfg.sysno))
    (served : runService v (s.reg s.cfg.sysArgReg) s = .done res u) (committed : commit s.cfg.sysResReg res u = .ok w) :
    exec .ecall s = .next ((v.endRun w).retire (s.pc + 4)) := by
  have ends : (if v = .exit then { w with finished := true } else w) = v.endRun w := by
    unfold Service.endRun
    split <;> rfl
  show execEcall s = _
  simp only [execEcall, ecallEffect, serviceOf_of_asksFor v asked, served, commitResult, committed, ends]
  rfl

/-- A service that is done, with a result the stack rule allows. -/
theorem exists_servedTo {s u : State} {v : Service} {res : Word} (asked : s.asksFor (v.number s.cfg.sysno))
    (served : runService v (s.reg s.cfg.sysArgReg) s = .done res u)
    (allowed : commitAllowed s s.cfg.sysResReg res = true) : ∃ t, ServedTo s u v res t := by
  obtain ⟨cfg, regs, -, -, -, -, icount, cycles, breakpoints, resuming, fl, dl, el, ml, wl⟩ := runService_done served
  obtain ⟨w, committed⟩ : ∃ w, commit s.cfg.sysResReg res u = .ok w :=
    commit_of_allowed (by rwa [commitAllowed, cfg])
  have engine := commit_engineKept committed
  have untouched := commit_untouched committed
  exact ⟨(v.endRun w).retire (s.pc + 4), {
    executed := execEcall_of_commit asked served committed
    regs := {
      dest := (commit_reg_self committed :)
      others := fun r other => (commit_reg_other committed other).trans (State.reg_eq_of_regs_eq regs r) }
    pages := { commit_pagesCommitted committed with }
    counted := ⟨rfl, congrArg (· + 1) ((commit_icount committed).trans icount)⟩
    engine := { engine with finished := congrArg (if v = .exit then true else ·) engine.finished }
    untouched := {
      cfg := untouched.cfg.trans cfg
      cycles := untouched.cycles.trans cycles
      breakpoints := untouched.breakpoints.trans breakpoints
      resuming := untouched.resuming.trans resuming
      fl := untouched.fl.trans fl
      dl := untouched.dl.trans dl
      el := untouched.el.trans el
      ml := untouched.ml.trans ml
      wl := untouched.wl.trans wl } }⟩

theorem PagesCommitted.of_memory_eq {s u t : State} {r : Reg} {v : Word} (h : PagesCommitted u r v t)
    (cfg : u.cfg = s.cfg) (mem : u.mem = s.mem) (draws : u.draws = s.draws) : PagesCommitted s r v t := by
  obtain ⟨unchanged, nothing, bytes, present, created, zeroed⟩ := h
  simp only [cfg, mem, draws] at unchanged nothing bytes present created zeroed
  exact ⟨unchanged, nothing, bytes, present, created, zeroed⟩

/-- A service that leaves memory alone: every one but SBRK (R208). -/
theorem exists_servedTo_of_memory_eq {s u : State} {v : Service} {res : Word} (asked : s.asksFor (v.number s.cfg.sysno))
    (served : runService v (s.reg s.cfg.sysArgReg) s = .done res u) (mem : u.mem = s.mem) (draws : u.draws = s.draws)
    (allowed : commitAllowed s s.cfg.sysResReg res = true) :
    ∃ t, exec .ecall s = .next t ∧ RegsCommitted s s.cfg.sysResReg res t ∧ PagesCommitted s s.cfg.sysResReg res t ∧
      Counted s (s.pc + 4) t ∧ EngineKept (v.endRun u) t ∧ Untouched s t := by
  obtain ⟨t, h⟩ := exists_servedTo asked served allowed
  have pages := h.pages.of_memory_eq (runService_done served).1 mem draws
  exact ⟨t, h.executed, h.regs, pages, h.counted, h.engine, h.untouched⟩

/-- The same with a result that the stack rule does not allow, of a service that keeps no output (log 14). -/
theorem execEcall_stops_of_quiet {s u : State} {v : Service} {res : Word} (quiet : v ≠ .printString)
    (asked : s.asksFor (v.number s.cfg.sysno)) (served : runService v (s.reg s.cfg.sysArgReg) s = .done res u)
    (breaks : commitAllowed s s.cfg.sysResReg res = false) :
    exec .ecall s = .next (stopped s (.stackExhausted res)) := by
  rw [execEcall_of_quiet_result_not_allowed quiet asked served breaks, List.append_nil]

/-- A service that stops keeps the output it has emitted (R205). -/
theorem execEcall_of_service_stops {s : State} {v : Service} {e : StopReason} {out : List Byte}
    (asked : s.asksFor (v.number s.cfg.sysno)) (stops : runService v (s.reg s.cfg.sysArgReg) s = .stops e out) :
    exec .ecall s = .next (stopped { s with output := s.output ++ out } e) := by
  show execEcall s = _
  simp only [execEcall, ecallEffect, serviceOf_of_asksFor v asked, stops]
  rfl

/-- A service that waits for the host (R202). -/
theorem execEcall_of_service_holds {s : State} {v : Service} (asked : s.asksFor (v.number s.cfg.sysno))
    (holds : runService v (s.reg s.cfg.sysArgReg) s = .holds) : exec .ecall s = .next { s with hold := true } := by
  show execEcall s = _
  simp only [execEcall, ecallEffect, serviceOf_of_asksFor v asked, holds]
  rfl

/-! ### PRINT_INT and PRINT_CHAR (R203, R204) -/

/-- The bytes of ASCII characters. -/
def asciiBytes (cs : List Char) : List Byte := cs.map fun c => BitVec.ofNat 8 c.toNat

theorem asciiBytes_digitChar {d : Nat} (lt : d < 10) : asciiBytes [d.digitChar] = [BitVec.ofNat 8 (48 + d)] := by
  revert d
  decide

theorem asciiBytes_append (xs ys : List Char) : asciiBytes (xs ++ ys) = asciiBytes xs ++ asciiBytes ys :=
  List.map_append

/-- The model's digits are the library's, where the bound allows one for each. -/
theorem digitsOf_eq_toDigits {fuel n : Nat} (acc : List Byte) (positive : 0 < fuel) (bound : n < 10 ^ fuel) :
    digitsOf fuel n acc = asciiBytes (Nat.toDigits 10 n) ++ acc := by
  induction fuel generalizing n acc with
  | zero => cases positive
  | succ fuel ih =>
    have digit := asciiBytes_digitChar (Nat.mod_lt n (by decide : 0 < 10))
    rw [digitsOf]
    by_cases last : n < 10
    · rw [Nat.mod_eq_of_lt last] at digit ⊢
      rw [if_pos (Nat.div_eq_of_lt last), Nat.toDigits_of_lt_base last, digit, List.singleton_append]
    · have more : 0 < fuel := by
        by_contra none
        obtain rfl : fuel = 0 := by omega
        exact last bound
      rw [Nat.toDigits_of_base_le (n := n) (by decide) (by omega), asciiBytes_append, digit, List.append_assoc,
        List.singleton_append, if_neg (by omega), ih _ more (by omega)]

/-- Twenty digits hold every magnitude of a word. -/
theorem natAbs_toInt_lt (v : Word) : v.toInt.natAbs < 10 ^ 20 := by
  have low := v.le_toInt
  have high := v.toInt_lt
  omega

/-- PRINT_INT writes the signed decimal: a '-' and the digits of the magnitude, or these alone. -/
theorem decimalOf_eq_toString (v : Word) : decimalOf v = asciiBytes (toString v.toInt).toList := by
  rw [decimalOf, digitsOf_eq_toDigits [] (by decide) (natAbs_toInt_lt v), List.append_nil]
  cases v.toInt with
  | ofNat n =>
    have nonneg : ¬Int.ofNat n < 0 := Int.not_lt.2 (Int.natCast_nonneg n)
    rw [if_neg nonneg]
    show asciiBytes (Nat.toDigits 10 n) = asciiBytes n.repr.toList
    rw [Nat.toList_repr]
  | negSucc n =>
    rw [if_pos (Int.negSucc_lt_zero n)]
    show 45#8 :: asciiBytes (Nat.toDigits 10 (n + 1)) = asciiBytes ("-" ++ (n + 1).repr).toList
    rw [String.toList_append, Nat.toList_repr]
    rfl

/-- Settles O31: what each service leaves is `exists_servedTo_of_memory_eq`, and its decimal is the library's. -/
theorem ecallPrints : Obligations.EcallPrints := by
  intro s allowed arg prints
  refine ⟨fun asked => ?_, fun asked => ?_⟩
  · rw [← asciiBytes, ← decimalOf_eq_toString]
    exact exists_servedTo_of_memory_eq (v := .printInt) asked rfl rfl rfl allowed
  · exact exists_servedTo_of_memory_eq (v := .printChar) asked rfl rfl rfl allowed

/-! ### PRINT_STRING (R205) -/

/-- The walk over `n` readable bytes before the first zero: it gives them and goes on after them. -/
theorem stringWalk_of_letters {s : State} {p : Word} {n : Nat} (fuel : Nat) (allowed : readable s p.toNat n = true)
    (letters : ∀ k, k < n → loadedByte s (p.toNat + k) ≠ 0) :
    stringWalk s.cfg s.mem (n + fuel) p =
      (loadedBytes s p.toNat n ++ (stringWalk s.cfg s.mem fuel (BitVec.ofNat 64 (p.toNat + n))).1,
        (stringWalk s.cfg s.mem fuel (BitVec.ofNat 64 (p.toNat + n))).2) := by
  rw [readable_iff] at allowed
  induction n generalizing p with
  | zero => simp [loadedBytes]
  | succ n ih =>
    have first : readableByte s p.toNat = true := allowed 0 (Nat.succ_pos _)
    have letter : loadedByte s p.toNat ≠ 0 := letters 0 (Nat.succ_pos n)
    have next := toNat_succ_of_readableByte first
    have shift (k : Nat) : (p + 1).toNat + k = p.toNat + (k + 1) := by omega
    have rest := ih (p := p + 1) (fun k lt => shift k ▸ allowed (k + 1) (Nat.succ_lt_succ lt))
      (fun k lt => shift k ▸ letters (k + 1) (Nat.succ_lt_succ lt))
    rw [Nat.succ_add, stringWalk_of_readableByte _ first, if_neg letter, rest, loadedBytes_succ, next,
      Nat.add_right_comm]
    rfl

/-- The walk over a byte that cannot be read stops there. -/
theorem stringWalk_of_fault {s : State} {p : Word} (fuel : Nat) (fault : readableByte s p.toNat = false) :
    stringWalk s.cfg s.mem (fuel + 1) p = ([], some (.memoryFault .read p)) := by
  simp only [stringWalk, memRead_of_fault (n := 1) (k := 0) rfl fault Nat.one_pos, Nat.add_zero, BitVec.ofNat_toNat,
    BitVec.setWidth_eq]

theorem lt_maxAddr_of_readableByte {s : State} {a : Nat} (h : readableByte s a = true) : a < s.cfg.maxAddr.toNat := by
  simp only [readableByte, Bool.and_eq_true, decide_eq_true_eq] at h
  exact h.1

/-- The byte after `n` readable ones does not wrap, and the bound on the walk (log 16) lies above it. -/
theorem bounds_of_readable {s : State} {p : Word} {n : Nat} (allowed : readable s p.toNat n = true) :
    p.toNat + n < 2 ^ 64 ∧ n ≤ s.cfg.maxAddr.toNat := by
  have first := p.isLt
  have top := s.cfg.maxAddr.isLt
  rw [readable_iff] at allowed
  cases n with
  | zero => omega
  | succ n =>
    have last := lt_maxAddr_of_readableByte (allowed n (Nat.lt_succ_self n))
    omega

/-- A string with an unreadable byte before its first zero: the bytes before that byte, and its stop. -/
theorem servicePrintString_of_fault {s : State} {arg : Word} {n : Nat} (allowed : readable s arg.toNat n = true)
    (letters : ∀ k, k < n → loadedByte s (arg.toNat + k) ≠ 0) (fault : readableByte s (arg.toNat + n) = false) :
    servicePrintString arg s =
      .stops (.memoryFault .read (BitVec.ofNat 64 (arg.toNat + n))) (loadedBytes s arg.toNat n) := by
  obtain ⟨noWrap, inBound⟩ := bounds_of_readable allowed
  have bound : s.cfg.maxAddr.toNat + 1 = n + (s.cfg.maxAddr.toNat - n + 1) := by omega
  have here : readableByte s (BitVec.ofNat 64 (arg.toNat + n)).toNat = false := by
    rwa [BitVec.toNat_ofNat, Nat.mod_eq_of_lt noWrap]
  simp only [servicePrintString, bound, stringWalk_of_letters _ allowed letters, stringWalk_of_fault _ here,
    List.append_nil]

theorem readable_succ {s : State} {a n : Nat} (before : readable s a n = true) (last : readableByte s (a + n) = true) :
    readable s a (n + 1) = true := by
  rw [readable, List.range_succ, List.all_append, ← readable, before]
  simpa using last

/-- Settles O32: the walk ends at the zero byte (`servicePrintString_of_string`) or at the byte that cannot be read
(`servicePrintString_of_fault`). -/
theorem ecallPrintString : Obligations.EcallPrintString := by
  intro s n asked a text before letters
  refine ⟨fun last zero allowed => ?_, fun fault => ?_⟩
  · have served := servicePrintString_of_string (readable_succ before last) letters zero
    exact exists_servedTo_of_memory_eq (v := .printString) asked served rfl rfl allowed
  · exact execEcall_of_service_stops (v := .printString) asked (servicePrintString_of_fault before letters fault)

/-! ### READ_INT and READ_CHAR (R202, R206, R207) -/

/-- A read with no input holds the core. -/
theorem execEcall_of_no_input {s : State} (input : s.input = []) :
    s.asksFor s.cfg.sysno.readInt ∨ s.asksFor s.cfg.sysno.readChar → exec .ecall s = .next { s with hold := true } := by
  rintro (asked | asked)
  · exact execEcall_of_service_holds (v := .readInt) asked (by simp only [runService, serviceReadInt, input])
  · exact execEcall_of_service_holds (v := .readChar) asked (by simp only [runService, serviceReadChar, input])

/-- Settles O33: a read takes the first value (`serviceReadInt_of_input`, `serviceReadChar_of_input`), or holds. -/
theorem ecallReads : Obligations.EcallReads := by
  intro s reads
  refine ⟨fun v vs input => ⟨fun asked allowed => ?_, fun asked allowed => ?_⟩, execEcall_of_no_input⟩
  · exact exists_servedTo_of_memory_eq (v := .readInt) asked (serviceReadInt_of_input input) rfl rfl allowed
  · exact exists_servedTo_of_memory_eq (v := .readChar) asked (serviceReadChar_of_input input) rfl rfl allowed

/-- Settles O34: the hold changed HOLD alone, which the host's input takes back. -/
theorem heldEcallIsPerformedAgain : Obligations.HeldEcallIsPerformedAgain := by
  intro s h vs hold input asked held
  rw [execEcall_of_no_input input asked] at held
  cases held
  have resumed : State.supplyInput { s with hold := true } vs = { s with input := vs } := by
    simp only [State.supplyInput, input, List.nil_append, ← hold]
  rw [resumed]

/-! ### HEAP_BASE_Q, HEAP_MAX_Q and EXIT (R209-R211) -/

/-- A service that does nothing but answer `v`. -/
theorem results_of_query {s : State} {q : Service} {v : Word} (asked : s.asksFor (q.number s.cfg.sysno))
    (served : runService q (s.reg s.cfg.sysArgReg) s = .done v s) (quiet : q ≠ .printString) (goesOn : q ≠ .exit) :
    Results s .ecall s.cfg.sysResReg v := by
  refine ⟨fun allowed => ?_, execEcall_stops_of_quiet quiet asked served⟩
  have same : q.endRun s = s := by rw [Service.endRun, if_neg goesOn]
  obtain ⟨t, executed, regs, pages, counted, engine, untouched⟩ :=
    exists_servedTo_of_memory_eq asked served rfl rfl allowed
  exact ⟨t, executed, regs, pages, counted, same ▸ engine, untouched⟩

/-- Settles O36: the queries answer and do nothing else (`results_of_query`), and after EXIT the run has ended. -/
theorem ecallQueriesAndExit : Obligations.EcallQueriesAndExit := by
  intro s
  refine ⟨fun asked => results_of_query (q := .heapBaseQ) asked rfl nofun nofun,
    fun asked => results_of_query (q := .heapMaxQ) asked rfl nofun nofun, fun asked => ⟨fun allowed => ?_, ?_⟩⟩
  · obtain ⟨t, executed, regs, pages, counted, engine, untouched⟩ :=
      exists_servedTo_of_memory_eq (v := .exit) asked rfl rfl rfl allowed
    have finished : t.finished = true := engine.finished
    have idle : step t = .next t := step_of_ended (by rw [State.ended, finished, Bool.true_or])
    exact ⟨t, executed, regs, pages, counted, engine, untouched, idle⟩
  · exact execEcall_stops_of_quiet (v := .exit) nofun asked rfl

/-! ### A number of no service (R212) -/

theorem serviceOf_eq_none {q : ServiceNumbers} {n : Word}
    (h : n ∉ [q.printInt, q.printChar, q.printString, q.readInt, q.readChar, q.sbrk, q.heapBaseQ, q.heapMaxQ, q.exit]) :
    serviceOf q n = none := by
  simp only [List.mem_cons, not_or] at h
  simp [serviceOf, h]

/-- Settles O37: no service is found, and nothing is emitted. -/
theorem ecallUnknownService : Obligations.EcallUnknownService := by
  intro s n q unknown
  have none : serviceOf s.cfg.sysno (s.reg s.cfg.sysNumReg) = none := serviceOf_eq_none unknown
  show execEcall s = _
  simp only [execEcall, ecallEffect, none, State.emit, List.append_nil]
  rfl

/-! ### EBREAK (R213) -/

theorem decode_eq_ebreak_iff (w : InstWord) : decode w = .instr .ebreak ↔ w = 0x00100073#32 := by
  constructor
  · intro decoded
    exact (encodeOfDecode w .ebreak decoded).2.symm
  · rintro rfl
    exact decodeOfEncode .ebreak rfl

/-- Settles O30: Execute gives the stop, which the atomic engine raises and the E stage hands on with the instruction. -/
theorem ebreakStops : Obligations.EbreakStops := by
  refine ⟨decode_eq_ebreak_iff, fun s => rfl, fun s t ticks valid untagged ebreak => ⟨?_, ?_⟩⟩
  · rw [ticks_ml ticks, eStage_active s.cfg s.el valid untagged, ebreak]
    rfl
  · obtain ⟨-, -, -, -, running⟩ := ticks
    simpa [State.ended] using (Bool.or_eq_false_iff.1 running).2

end Sys2Proof.Machine
end

section
/-! PROOFS. SBRK (45_system.md R208): the pages it allocates are those that meet what the break grew over, and nothing else of
memory changes but the page of a result committed to x2. -/

namespace Sys2Proof.Machine

/-! ### Allocating consecutive pages -/

@[simp] theorem State.allocPages_cells (n b : Nat) (s : State) : (State.allocPages n b s).mem.cells = s.mem.cells := by
  induction n generalizing b s with
  | zero => rfl
  | succ n ih => rw [State.allocPages, ih, State.alloc_cells]

/-- Every byte of a present page reads as before. -/
theorem State.allocPages_byteAt_present (n b : Nat) (s : State) (a : Nat) (p : Page) (found : walk s.cfg s.mem a = some p) :
    byteAt s.cfg (State.allocPages n b s).mem a = byteAt s.cfg s.mem a := by
  rw [byteAt, byteAt, State.allocPages_walk_present n b s a p found, found, State.allocPages_cells]

/-- After Alloc of its page below MAXADDR, an address is present. -/
theorem State.alloc_walk_isSome (s : State) {b : Nat} (w x : Bool) {a : Nat} (here : pageBase s.cfg a = b)
    (below : b < s.cfg.maxAddr.toNat) : (walk s.cfg (s.alloc b w x).mem a).isSome = true := by
  rw [walk, here]
  cases page : findPage s.mem.pages b with
  | none => rw [s.alloc_created b w x below page, Option.isSome_some]
  | some p => rw [s.alloc_nothing b w x (.inr (by rw [page, Option.isSome_some])), page, Option.isSome_some]

/-- After the allocation of consecutive pages, an address in one of them, below MAXADDR, is present. -/
theorem State.allocPages_walk_isSome {n b i a : Nat} {s : State} (lt : i < n)
    (here : pageBase s.cfg a = b + i * pageSize s.cfg) (below : pageBase s.cfg a < s.cfg.maxAddr.toNat) :
    (walk s.cfg (State.allocPages n b s).mem a).isSome = true := by
  induction n generalizing b i s with
  | zero => cases lt
  | succ n ih =>
    have cfg := s.alloc_cfg b true false
    rw [State.allocPages]
    cases i with
    | zero =>
      have first : pageBase s.cfg a = b := by simpa using here
      obtain ⟨p, found⟩ := Option.isSome_iff_exists.1 (s.alloc_walk_isSome true false first (first ▸ below))
      have kept := State.allocPages_walk_present n (b + pageSize s.cfg) _ a p (cfg.symm ▸ found)
      rw [cfg] at kept
      rw [kept, Option.isSome_some]
    | succ i =>
      have later := ih (b := b + pageSize s.cfg) (s := s.alloc b true false) (Nat.lt_of_succ_lt_succ lt)
      rw [cfg] at later
      exact later (by rw [here, Nat.succ_mul]; omega) below

theorem pageBase_eq_div_mul (c : Config) (a : Nat) : pageBase c a = a / pageSize c * pageSize c := by
  rw [pageBase, Nat.mul_comm, Nat.sub_eq_of_eq_add (Nat.div_add_mod a (pageSize c)).symm]

/-- An address that the break grows over lies in one of the pages allocated (R208). -/
theorem exists_page_of_covered {c : Config} {old new a : Nat} (low : old ≤ a) (high : a < new) :
    ∃ i, i < pagesToCover c old new ∧ pageBase c a = pageBase c old + i * pageSize c := by
  have first : old / pageSize c ≤ a / pageSize c := Nat.div_le_div_right low
  have last : a / pageSize c ≤ (new - 1) / pageSize c := Nat.div_le_div_right (by omega)
  refine ⟨a / pageSize c - old / pageSize c, ?_, ?_⟩
  · rw [pagesToCover, if_neg (by omega)]
    omega
  · rw [pageBase_eq_div_mul, pageBase_eq_div_mul, ← Nat.add_mul, Nat.add_sub_cancel' first]

/-! ### The service -/

/-- The new break, in unbounded integers. -/
def State.newBreak (s : State) (arg : Word) : Int := (s.heap.toNat : Int) + arg.toInt

/-- The state SBRK leaves before its result commit, where the new break is in bounds. -/
def State.withBreak (s : State) (new : Int) : State :=
  { State.allocPages (pagesToCover s.cfg s.heap.toNat new.toNat) (pageBase s.cfg s.heap.toNat) s with
    heap := BitVec.ofInt 64 new }

theorem serviceSbrk_of_inBounds {s : State} {arg : Word} (low : (s.cfg.heapBase.toNat : Int) ≤ s.newBreak arg)
    (high : s.newBreak arg ≤ (s.cfg.heapMax.toNat : Int)) :
    serviceSbrk arg s = .done s.heap (s.withBreak (s.newBreak arg)) :=
  if_neg (not_or.2 ⟨Int.not_lt.2 high, Int.not_lt.2 low⟩)

theorem serviceSbrk_of_outOfBounds {s : State} {arg : Word}
    (outside : s.newBreak arg < (s.cfg.heapBase.toNat : Int) ∨ (s.cfg.heapMax.toNat : Int) < s.newBreak arg) :
    serviceSbrk arg s = .stops (.heapExhausted (BitVec.ofInt 64 (s.newBreak arg))) [] :=
  if_pos outside.symm

/-! ### The state SBRK leaves before its result commit -/

theorem EngineKept.trans {s t u : State} (h : EngineKept s t) (k : EngineKept t u) : EngineKept s u :=
  ⟨k.heap.trans h.heap, k.finished.trans h.finished, k.exitStatus.trans h.exitStatus, k.stop.trans h.stop,
    k.hold.trans h.hold, k.output.trans h.output, k.input.trans h.input⟩

section
variable {s : State} {new : Int} {a : Nat}

@[simp] theorem State.withBreak_cfg : (s.withBreak new).cfg = s.cfg := State.allocPages_cfg ..

/-- Besides memory, SBRK changes HEAP alone. -/
theorem State.withBreak_engineKept : EngineKept { s with heap := BitVec.ofInt 64 new } (s.withBreak new) := by
  constructor <;> simp [State.withBreak]

/-- A present page and its bytes stay. -/
theorem State.withBreak_present {p : Page} (found : walk s.cfg s.mem a = some p) :
    walk s.cfg (s.withBreak new).mem a = some p ∧ byteAt s.cfg (s.withBreak new).mem a = byteAt s.cfg s.mem a :=
  ⟨State.allocPages_walk_present _ _ s a p found, State.allocPages_byteAt_present _ _ s a p found⟩

/-- Every page below MAXADDR that the break grows over is there. -/
theorem State.withBreak_covers (low : s.heap.toNat ≤ a) (high : (a : Int) < new)
    (below : pageBase s.cfg a < s.cfg.maxAddr.toNat) : (walk s.cfg (s.withBreak new).mem a).isSome = true := by
  obtain ⟨i, lt, here⟩ := exists_page_of_covered (c := s.cfg) low (show a < new.toNat by omega)
  exact State.allocPages_walk_isSome lt here below

/-- What the break grew over, in unbounded integers: the heap bounds keep the new break below 2^64. -/
theorem MeetsNewBreak.of_inBounds {t : State} {b : Nat} (meets : MeetsNewBreak s t b) (heap : t.heap = BitVec.ofInt 64 new)
    (low : (s.cfg.heapBase.toNat : Int) ≤ new) (high : new ≤ (s.cfg.heapMax.toNat : Int)) :
    (s.heap.toNat : Int) < new ∧ (b : Int) < new ∧ s.heap.toNat < b + pageSize s.cfg := by
  obtain ⟨grows, inside, above⟩ := meets
  have same : (t.heap.toNat : Int) = new := by rw [heap, toNat_ofInt_of_le low high]
  omega

end

/-- A page that an ECALL creates meets what the break grew over, or is that of a result committed to x2. -/
theorem ServedTo.walk_created {s u t : State} {v : Service} {res : Word} {a : Nat} {p : Page} (h : ServedTo s u v res t)
    (served : runService v (s.reg s.cfg.sysArgReg) s = .done res u) (absent : walk s.cfg s.mem a = none)
    (found : walk s.cfg t.mem a = some p) :
    p.writable = true ∧ p.executable = false ∧
      (MeetsNewBreak s t (pageBase s.cfg a) ∨
        s.cfg.sysResReg = 2#5 ∧ pageBase s.cfg a = pageBase s.cfg res.toNat) := by
  by_cases sp : s.cfg.sysResReg = 2#5
  · have result : t.reg 2#5 = res := by rw [← sp, h.regs.dest, sp, if_neg (by decide)]
    obtain ⟨writable, notExecutable, -, page | meets⟩ := (exec_memoryEffect h.executed).walk_created absent found
    · exact ⟨writable, notExecutable, .inr ⟨sp, result ▸ page⟩⟩
    · exact ⟨writable, notExecutable, .inl meets⟩
  · have heap : t.heap = u.heap := h.engine.heap
    rw [(h.pages.unchanged sp).1] at found
    obtain ⟨writable, notExecutable, -, meets⟩ := (runService_memoryChanges served).walk_created absent found
    exact ⟨writable, notExecutable, .inl (by rwa [MeetsNewBreak, heap])⟩

/-- Settles O35: the service leaves `State.withBreak`, whose pages the result commit keeps; a page that appears is one of
`ServedTo.walk_created`. -/
theorem ecallSbrk : Obligations.EcallSbrk := by
  intro s asked old new
  refine ⟨fun low high allowed => ?done, fun low high breaks => ?resultStops, fun outside => ?heapStops⟩
  case done =>
    have served : runService .sbrk (s.reg s.cfg.sysArgReg) s = .done old (s.withBreak new) :=
      serviceSbrk_of_inBounds low high
    obtain ⟨t, h⟩ := exists_servedTo (v := .sbrk) asked served allowed
    have engine := State.withBreak_engineKept.trans h.engine
    have kept (a : Nat) (p : Page) (found : walk s.cfg (s.withBreak new).mem a = some p) :
        walk t.cfg t.mem a = some p ∧ byteAt t.cfg t.mem a = byteAt s.cfg (s.withBreak new).mem a := by
      rw [← s.withBreak_cfg (new := new)] at found ⊢
      exact h.pages.present a p found
    refine ⟨t, h.executed, h.regs, h.counted, engine, h.untouched, fun a p found => ?present,
      fun a low high below => ?covered, fun a p absent found => ?created⟩
    case present =>
      obtain ⟨present, bytes⟩ := s.withBreak_present (new := new) found
      obtain ⟨present', bytes'⟩ := kept a p present
      exact ⟨present', bytes'.trans bytes⟩
    case covered =>
      obtain ⟨p, found⟩ := Option.isSome_iff_exists.1 (State.withBreak_covers low high below)
      rw [(kept a p found).1, Option.isSome_some]
    case created =>
      rw [h.untouched.cfg] at found
      obtain ⟨writable, notExecutable, page⟩ := h.walk_created served absent found
      exact ⟨writable, notExecutable, page.imp_left (·.of_inBounds engine.heap low high)⟩
  case resultStops =>
    exact execEcall_stops_of_quiet (v := .sbrk) nofun asked (serviceSbrk_of_inBounds low high) breaks
  case heapStops =>
    rw [execEcall_of_service_stops (v := .sbrk) asked (serviceSbrk_of_outOfBounds outside), List.append_nil]
    rfl

end Sys2Proof.Machine
end

section
/-! PROOFS. The ends of a run and the hold (40_execution_step.md R102, 60_exceptions.md R228, R232, R239): no step is
performed after them, and the cycle that comes to one leaves every latch (70_reset_and_hazards.md R275, R276). -/

namespace Sys2Proof.Machine

/-! ### No step after the end or in a hold -/

/-- While the core holds, a step changes nothing (60_exceptions.md R239). -/
theorem step_of_hold {s : State} (h : s.hold = true) : step s = .next s := by
  simp [step, stepOnce, h]

/-- Settles O10: a run that finished or stopped has ended (`step_of_ended`), and a hold is `step_of_hold`. -/
theorem nothingAfterEndOrInHold : Obligations.NothingAfterEndOrInHold := by
  rintro s (finished | stopped | hold)
  · exact step_of_ended (by simp [State.ended, finished])
  · exact step_of_ended (by simp [State.ended, stopped])
  · exact step_of_hold hold

/-! ### How the W and M stages end -/

/-- An ECALL never clears FINISHED (45_system.md R211). -/
theorem unfinished_of_ecallEffect {s t : State} {res : Word} (h : ecallEffect s = .done res t) (goesOn : t.finished = false) :
    s.finished = false := by
  obtain ⟨v, u, w, -, served, committed, rfl⟩ := ecallEffect_done h
  obtain ⟨-, -, -, -, -, finished, -⟩ := runService_done served
  rw [← finished, ← commit_finished committed]
  split at goesOn
  · cases goesOn
  · exact goesOn

/-- An untagged ECALL in W: what its effect comes to (70_reset_and_hazards.md R259). -/
theorem wStage_of_ecall {s : State} (valid : s.wl.valid = true) (untagged : s.wl.exc = none)
    (ecall : s.wl.d.sub.isEcall = true) :
    wStage s = match ecallEffect s with
      | .holds => .holds
      | .stops e out => .stops e (s.emit out)
      | .done _ t => if t.finished then .finished t.count else .goesOn t.count true := by
  simp only [wStage, valid, untagged, ecall]
  cases ecallEffect s <;> rfl

/-- What each end of the W stage says of the status of the run, and what a stop leaves besides: output, of an instruction
that is in W (70_reset_and_hazards.md R259, R276). -/
theorem wStage_cases (s : State) :
    wStage s = .holds ∨
    (∃ e out, wStage s = .stops e (s.emit out) ∧ s.wl.valid = true) ∨
    (∃ t, wStage s = .finished t ∧ t.stop = s.stop) ∨
    (∃ t b, wStage s = .goesOn t b ∧ t.finished = s.finished) := by
  have quiet : s.emit [] = s := by rw [State.emit, List.append_nil]
  cases valid : s.wl.valid with
  | false => exact .inr (.inr (.inr ⟨s, false, wStage_invalid valid, rfl⟩))
  | true =>
    cases tag : s.wl.exc with
    | some e => exact .inr (.inl ⟨e, [], by rw [wStage_tagged valid tag, quiet], rfl⟩)
    | none =>
      cases ecall : s.wl.d.sub.isEcall with
      | true =>
        rw [wStage_of_ecall valid tag ecall]
        cases effect : ecallEffect s with
        | holds => exact .inl rfl
        | stops e out => exact .inr (.inl ⟨e, out, rfl, rfl⟩)
        | done res t =>
          obtain ⟨-, -, stop, -⟩ := ecallEffect_fields effect
          cases exits : t.finished with
          | true => exact .inr (.inr (.inl ⟨t.count, by simp [exits], stop⟩))
          | false =>
            have before := unfinished_of_ecallEffect effect exits
            exact .inr (.inr (.inr ⟨t.count, true, by simp [exits], exits.trans before.symm⟩))
      | false =>
        rw [wStage_of_commit valid tag ecall]
        cases committed : commit (s.wl.d.sub.dest.getD 0) s.wl.value s with
        | error e => exact .inr (.inl ⟨e, [], by rw [quiet], rfl⟩)
        | ok t => exact .inr (.inr (.inr ⟨t.count, false, rfl, (commit_finished committed :)⟩))

/-- Only an instruction in M makes the M stage stop (70_reset_and_hazards.md R260). -/
theorem valid_of_mStage_error {c : Config} {m : Memory} {l : MemoryLatch} {e : StopReason}
    (h : mStage c m l = .error e) : l.valid = true := by
  by_contra invalid
  rw [mStage_invalid c m (Bool.eq_false_of_not_eq_true invalid)] at h
  cases h

/-! ### The cycle that ends or holds -/

/-- The stop `p`, recorded in `t`, is that of the instruction in W, which had no effect on the registers, memory or ICOUNT,
or that of the instruction in M (70_reset_and_hazards.md R276, 60_exceptions.md R232). -/
def NamesInstruction (s t : State) (p : Stop) : Prop :=
  (s.wl.valid = true ∧ p.instPc = s.wl.pc ∧ t.icount = s.icount ∧ t.mem = s.mem ∧ t.regs = s.regs) ∨
  (s.ml.valid = true ∧ p.instPc = s.ml.pc)

/-- A cycle of a run that is going on comes to an end or a hold with its latches kept, or it ticks and the run goes on
(70_reset_and_hazards.md R258, R276). -/
theorem cycle_ends_or_ticks {s t : State} (ended : s.ended = false) (notHeld : s.hold = false) (h : cycle s = .next t) :
    (t.latches = s.latches ∧ ∀ p, t.stop = some p → NamesInstruction s t p) ∨ (t.ended = false ∧ t.hold = false) := by
  obtain ⟨finished, stop⟩ : s.finished = false ∧ s.stop = none := by simpa [State.ended] using ended
  have latches := wStage_leaves_latches s.wl.pc s
  obtain w | ⟨e, out, w, valid⟩ | ⟨u, w, unstopped⟩ | ⟨u, b, w, unfinished⟩ := wStage_cases s
  all_goals
    rw [cycle, w] at h
    rw [w] at latches
  · cases h
    exact .inl ⟨rfl, fun p stopped => absurd (stop.symm.trans stopped) nofun⟩
  · cases h
    refine .inl ⟨rfl, fun p stopped => ?_⟩
    cases stopped
    exact .inl ⟨valid, rfl, rfl, rfl, rfl⟩
  · cases h
    exact .inl ⟨latches, fun p stopped => absurd ((unstopped.trans stop).symm.trans stopped) nofun⟩
  · obtain ⟨-, sameStop, sameHold, -, -, -, -, -, -, sameM, -⟩ := wStage_goesOn w
    dsimp only at h
    cases access : mStage u.cfg u.mem u.ml with
    | error e =>
      rw [access] at h
      cases h
      refine .inl ⟨latches, fun p stopped => ?_⟩
      cases stopped
      exact .inr ⟨sameM ▸ valid_of_mStage_error access, rfl⟩
    | ok r =>
      rw [access] at h
      cases h
      refine .inr ⟨?_, sameHold.trans notHeld⟩
      show (u.finished || u.stop.isSome) = false
      rw [unfinished, finished, sameStop, stop]
      rfl

/-- Settles O56: a cycle that ends or holds is not one that ticks (`cycle_ends_or_ticks`). -/
theorem pipelinedEndsKeepLatches : Obligations.PipelinedEndsKeepLatches := by
  intro s t mode running h
  obtain ⟨⟨ended, hold⟩, -⟩ : (s.ended = false ∧ s.hold = false) ∧ _ := by simpa [State.runs] using running
  rw [step_of_runs running, engineStep, mode] at h
  obtain ⟨u, next, -⟩ := cycle_answers s
  rw [next] at h
  cases h
  obtain ⟨latches, names⟩ | ⟨goesOn, notHeld⟩ := cycle_ends_or_ticks ended hold next
  · simp only [State.latches, Prod.mk.injEq] at latches
    exact ⟨fun _ => latches, names⟩
  · obtain ⟨unfinished, unstopped⟩ : u.finished = false ∧ u.stop = none := by simpa [State.ended] using goesOn
    exact ⟨by simp [notHeld, unfinished, unstopped], by simp [unstopped]⟩

end Sys2Proof.Machine
end

section
/-! PROOFS. The cycle that ticks (70_reset_and_hazards.md R256, R258, R267, R268): what each stage of it does, said once from the
state before it to the state after it; the case of the controller it is in; and the barrier of R267. -/

namespace Sys2Proof.Machine

/-! ### The stages of a tick -/

theorem State.latches_eq_iff {s t : State} :
    t.latches = s.latches ↔ t.fl = s.fl ∧ t.dl = s.dl ∧ t.el = s.el ∧ t.ml = s.ml ∧ t.wl = s.wl := by
  simp [State.latches]

/-- Hazards and control look at the latches alone (R267, R268). -/
theorem controller_congr {s t : State} (same : t.latches = s.latches) (ex : EResult) (de : DResult) (fe : FResult) :
    controller t ex de fe = controller s ex de fe := by
  obtain ⟨fl, dl, el, ml, wl⟩ := State.latches_eq_iff.1 same
  have hazard : loadUse t = loadUse s := by unfold loadUse; rw [dl, el]
  have ecalls : barrier t = barrier s := by unfold barrier; rw [el, ml, wl]
  unfold controller
  rw [hazard, ecalls, fl, dl]

/-- Decode looks at the latches and at the register file (R262, R263). -/
theorem dStage_congr {s t : State} (same : t.latches = s.latches) (regs : t.regs = s.regs) (mn wn : MemoryLatch) :
    dStage t mn wn = dStage s mn wn := by
  obtain ⟨-, dl, el, ml, -⟩ := State.latches_eq_iff.1 same
  have operands : operand t mn wn = operand s mn wn := by
    funext o
    cases o with
    | none => rfl
    | some r => simp only [operand, forward, State.reg_eq_of_regs_eq regs, el, ml]
  simp only [dStage, dl, operands]

/-- What Decode gives in a cycle from `s` that ticks to `t`: it reads the latches of the start of the cycle, the register file
after this cycle's commit, and what Execute and Memory hand on (R262, R263). -/
def State.decodeStage (s t : State) : DResult := dStage { s with regs := t.regs } t.ml t.wl

/-- What Fetch gives in a cycle from `s` that ticks to `t`: it reads memory as this cycle's store left it (R265). -/
def State.fetchStage (s t : State) : FResult := fStage s.cfg t.mem s.fl

/-- The F, D and E latches of a state. -/
def State.front (s : State) : NextLatches := { f := s.fl, d := s.dl, e := s.el }

/-- What a cycle from `s` that ticks to `t` did, stage by stage, `u` being the state Writeback left (R258, R272). -/
structure TicksThrough (s t u : State) (ecall : Bool) : Prop where
  cfg       : t.cfg = s.cfg
  writeback : wStage s = .goesOn u ecall
  memory    : mStage s.cfg u.mem s.ml = .ok { mem := t.mem, wn := t.wl }
  execute   : t.ml = (eStage s.cfg s.el).mn
  control   : t.front = controller s (eStage s.cfg s.el) (s.decodeStage t) (s.fetchStage t)
  charge    : t.cycles = s.cycles + BitVec.ofNat 64 (1 + executeCharge s.cfg s.el t.ml +
    (if ecall then s.cfg.sysLat else 0) + memoryCharge s.cfg s.ml + fetchCharge s.cfg s.fl (s.fetchStage t).dn)

theorem State.ticks.through {s t : State} (h : s.ticks t) : ∃ u ecall, TicksThrough s t u ecall := by
  obtain ⟨u, ecall, r, w, m, left⟩ := ticks_cases h
  obtain ⟨cfg, -, -, cycles, -, -, fl, dl, el, ml, wl⟩ := wStage_goesOn w
  have same : (u.setMem r.mem).latches = s.latches := State.latches_eq_iff.2 ⟨fl, dl, el, ml, wl⟩
  rw [cfg, ml] at m
  have execute := ticks_ml h
  subst left
  refine ⟨u, ecall, cfg, w, m, execute, ?control, ?charge⟩
  case control =>
    have decode : dStage (u.setMem r.mem) (eStage s.cfg s.el).mn r.wn =
        s.decodeStage (tick ecall r.wn (u.setMem r.mem)).endResume := by
      rw [← execute]
      exact dStage_congr (s := { s with regs := u.regs }) same rfl _ _
    show controller (u.setMem r.mem) (eStage u.cfg u.el) (dStage (u.setMem r.mem) (eStage u.cfg u.el).mn r.wn)
      (fStage u.cfg r.mem u.fl) = _
    rw [controller_congr same, cfg, el, fl, decode]
    rfl
  case charge =>
    rw [execute]
    show u.cycles + BitVec.ofNat 64 (1 + executeCharge u.cfg u.el (eStage u.cfg u.el).mn +
      (if ecall then u.cfg.sysLat else 0) + memoryCharge u.cfg u.ml +
      fetchCharge u.cfg u.fl (fStage u.cfg r.mem u.fl).dn) = _
    rw [cfg, cycles, el, ml, fl]
    rfl

/-! ### What M and W receive -/

@[simp] theorem eStage_valid (c : Config) (e : ExecuteLatch) : (eStage c e).mn.valid = e.valid := by
  unfold eStage
  split
  · exact latchExecuted_valid ..
  · rfl

/-- M takes the instruction of E, and W that of M (R256). -/
theorem State.ticks.moves {s t : State} (h : s.ticks t) :
    t.ml.valid = s.el.valid ∧ t.ml.d = s.el.d ∧ t.wl.valid = s.ml.valid ∧ t.wl.d = s.ml.d := by
  obtain ⟨u, ecall, k⟩ := h.through
  obtain ⟨-, value, handed : t.wl = _⟩ := mStage_ok k.memory
  rw [k.execute, handed]
  exact ⟨eStage_valid .., eStage_record .., rfl, rfl⟩

/-! ### The cases of the controller -/

theorem isEcall_iff {d : Decoded} : d.isEcall = true ↔ d = .instr .ecall := ⟨eq_ecall_of_isEcall, fun h => h ▸ rfl⟩

theorem barrier_iff (s : State) : barrier s = true ↔ s.syscallBarrier := by
  simp [barrier, State.syscallBarrier, isEcall_iff, or_assoc]

theorem loadUse_iff (s : State) : loadUse s = true ↔ s.loadUseHazard := by
  unfold loadUse State.loadUseHazard
  cases s.el.d.sub.dest <;> simp [and_assoc]

theorem stall_iff (s : State) : (loadUse s || barrier s) = true ↔ s.loadUseHazard ∨ s.syscallBarrier := by
  rw [Bool.or_eq_true, loadUse_iff, barrier_iff]

/-- Only the prediction of a branch is found wrong (R261). -/
theorem eStage_mispredict_iff (c : Config) (e : ExecuteLatch) :
    (eStage c e).mispredict = true ↔
      e.valid = true ∧ e.exc = none ∧ e.d.sub.isBranch = true ∧ (eStage c e).mn.taken ≠ e.ptaken := by
  by_cases active : e.valid = true ∧ e.exc = none
  · simp [eStage, active]
  · simp only [eStage, if_neg active, Bool.false_eq_true, false_iff]
    exact fun ⟨valid, untagged, _⟩ => active ⟨valid, untagged⟩

theorem State.decodeStage_jalr_iff (s t : State) : (s.decodeStage t).jalr = true ↔ s.jalrInDecode := by
  unfold State.decodeStage dStage State.jalrInDecode
  cases s.dl.valid <;> cases s.dl.exc <;> simp

section
variable {s t : State} (h : s.ticks t)
include h

theorem State.ticks.mispredict_iff : (eStage s.cfg s.el).mispredict = true ↔ s.squashes t := by
  rw [State.squashes, ticks_ml h, eStage_mispredict_iff]

/-- A squash corrects Fetch and empties D and E (R268). -/
theorem State.ticks.front_of_squash (squash : s.squashes t) :
    t.front = { f := ⟨(eStage s.cfg s.el).corr⟩, d := .bubble, e := .bubble } := by
  obtain ⟨u, ecall, stages⟩ := h.through
  rw [stages.control, controller, if_pos (h.mispredict_iff.2 squash)]

theorem State.ticks.front_of_no_squash (goes : ¬s.squashes t) :
    t.front =
      if loadUse s || barrier s then { f := s.fl, d := s.dl, e := .bubble }
      else if (s.decodeStage t).jalr then { f := ⟨(s.decodeStage t).jt⟩, d := .bubble, e := (s.decodeStage t).en }
      else { f := ⟨(s.fetchStage t).pnext⟩, d := (s.fetchStage t).dn, e := (s.decodeStage t).en } := by
  obtain ⟨u, ecall, stages⟩ := h.through
  rw [stages.control, controller, if_neg (h.mispredict_iff.not.2 goes)]

/-- A stall holds F and D and empties E (R268). -/
theorem State.ticks.front_of_stall (goes : ¬s.squashes t) (stall : s.loadUseHazard ∨ s.syscallBarrier) :
    t.front = { f := s.fl, d := s.dl, e := .bubble } := by
  rw [h.front_of_no_squash goes, if_pos ((stall_iff s).2 stall)]

/-- A JALR in D goes on to E, corrects Fetch and empties D (R264, R268). -/
theorem State.ticks.front_of_redirect (goes : ¬s.squashes t) (flows : ¬(s.loadUseHazard ∨ s.syscallBarrier))
    (redirect : s.jalrInDecode) :
    t.front = { f := ⟨(s.decodeStage t).jt⟩, d := .bubble, e := (s.decodeStage t).en } := by
  rw [h.front_of_no_squash goes, if_neg ((stall_iff s).not.2 flows), if_pos ((s.decodeStage_jalr_iff t).2 redirect)]

/-- Squashes and stalls put a bubble into E, the other cases what Decode gives; and an ECALL stalls (R268). -/
theorem State.ticks.el_cases : t.el = .bubble ∨ (¬s.syscallBarrier ∧ t.el = (s.decodeStage t).en) := by
  by_cases squash : s.squashes t
  · exact .inl (congrArg NextLatches.e (h.front_of_squash squash))
  by_cases stall : s.loadUseHazard ∨ s.syscallBarrier
  · exact .inl (congrArg NextLatches.e (h.front_of_stall squash stall))
  refine .inr ⟨fun ecall => stall (.inr ecall), ?_⟩
  have front := congrArg NextLatches.e (h.front_of_no_squash squash)
  rw [if_neg ((stall_iff s).not.2 stall)] at front
  split at front <;> exact front

end

/-- In the normal case every latch moves on (R268). -/
theorem State.normalCycle.front {s t : State} (normal : s.normalCycle t) :
    t.front = { f := ⟨(s.fetchStage t).pnext⟩, d := (s.fetchStage t).dn, e := (s.decodeStage t).en } := by
  obtain ⟨h, goes, noHazard, noEcall, straight⟩ := normal
  rw [h.front_of_no_squash goes, if_neg ((stall_iff s).not.2 (not_or.2 ⟨noHazard, noEcall⟩)),
    if_neg ((s.decodeStage_jalr_iff t).not.2 straight)]

/-! ### Steps that do not tick -/

/-- A run that takes a step goes on and does not hold (40_execution_step.md R102). -/
theorem ended_hold_of_runs {s : State} (running : s.runs = true) : s.ended = false ∧ s.hold = false := by
  simp only [State.runs, Bool.and_eq_true, Bool.not_eq_true'] at running
  obtain ⟨live, -⟩ := running
  exact live

/-- Only a cycle that ticks changes the latches (R256, R276). -/
theorem step_latches_or_ticks {s t : State} (h : step s = .next t) : t.latches = s.latches ∨ s.ticks t := by
  obtain ⟨running, performed⟩ | ⟨-, idle | paused⟩ := step_cases s
  · obtain ⟨u, next, -⟩ := engineStep_answers s
    have stepped := h
    rw [performed, next] at stepped
    cases stepped
    cases mode : s.cfg.mode with
    | atomic =>
      rw [engineStep, mode] at next
      exact .inl (atomicStep_latches next :)
    | pipelined =>
      rw [engineStep, mode] at next
      obtain ⟨ended, hold⟩ := ended_hold_of_runs running
      obtain ⟨latches, -⟩ | ⟨goesOn, notHeld⟩ := cycle_ends_or_ticks ended hold next
      · exact .inl latches
      · exact .inr ⟨mode, running, h, notHeld, goesOn⟩
  · cases idle.symm.trans h
    exact .inl rfl
  · cases paused.symm.trans h
    exact .inl rfl

/-! ### The barrier -/

theorem State.barrierInv_iff (s : State) : s.barrierInv = true ↔
    (s.ml.valid = true → s.ml.d.sub = .instr .ecall → s.el.valid = false) ∧
    (s.wl.valid = true → s.wl.d.sub = .instr .ecall → s.el.valid = false ∧ s.ml.valid = false) := by
  simp only [← isEcall_iff]
  unfold State.barrierInv
  cases s.el.valid <;> cases s.ml.valid <;> cases s.wl.valid <;> simp

/-- An ECALL that moves on to M or W held the barrier, so E received a bubble. -/
theorem State.ticks.barrierInv {s t : State} (h : s.ticks t) (inv : s.barrierInv = true) : t.barrierInv = true := by
  obtain ⟨mValid, mRecord, wValid, wRecord⟩ := h.moves
  rw [State.barrierInv_iff] at inv ⊢
  rw [mValid, mRecord, wValid, wRecord]
  have bubble (ecall : s.syscallBarrier) : t.el.valid = false := by
    obtain empty | ⟨noEcall, -⟩ := h.el_cases
    · rw [empty]; rfl
    · exact absurd ecall noEcall
  obtain ⟨emptyE, -⟩ := inv
  exact ⟨fun valid ecall => bubble (.inl ⟨valid, ecall⟩),
    fun valid ecall => ⟨bubble (.inr (.inl ⟨valid, ecall⟩)), emptyE valid ecall⟩⟩

/-- Settles O50: only a tick changes the latches, and it keeps the barrier (`State.ticks.barrierInv`). -/
theorem stepKeepsBarrier : Obligations.StepKeepsBarrier := by
  intro s t inv h
  obtain same | ticks := step_latches_or_ticks h
  · obtain ⟨-, -, el, ml, wl⟩ := State.latches_eq_iff.1 same
    rw [State.barrierInv, el, ml, wl]
    exact inv
  · exact ticks.barrierInv inv

end Sys2Proof.Machine
end

section
/-! PROOFS. What a cycle that ticks hands from stage to stage (70_reset_and_hazards.md R260-R269, R282, R283): the whole M and
W latches, by the kind of instruction; what Decode and Fetch give; the operands of E; and the way of a tag. -/

namespace Sys2Proof.Machine

/-! ### What Execute gives (R261) -/

section
variable {s : State} {op : AluOp} {a b pc w v : Word}

/-- Execute of an operation that cannot fault, whose value the ALU gives as `w` and the rule as `v`. -/
theorem aluExecuted_of_quiet (quiet : op.divides = false) (value : alu s.cfg.wshiftWide op a b = w)
    (result : some w = some v) : aluExecuted s.cfg op a b pc = .value v := by
  rw [aluExecuted, aluFaults_of_not_divides _ a b quiet, value, Option.some.inj result]
  rfl

/-- Execute of a signed division, which faults where the rule says so (42_muldiv.md R151). -/
theorem aluExecuted_of_faults {faults : Bool} (stops : aluFaults s.cfg.divOvf op a b = faults)
    (value : alu s.cfg.wshiftWide op a b = w) (result : some w = some v) :
    aluExecuted s.cfg op a b pc = if faults then .stops (.arithmeticFault pc) else .value v := by
  rw [aluExecuted, stops, value, Option.some.inj result]

/-- Execute gives the result written from the instruction's rule, or the stop of a division (41_integer.md R114-R143,
42_muldiv.md R150-R166). -/
theorem executeInstr_of_resultOf {i : Instr} (h : resultOf s.cfg i a b pc = some v) :
    executeInstr s.cfg i a b pc = if executeFaults s i a b then .stops (.arithmeticFault pc) else .value v := by
  cases i with
  | lui | auipc => exact congrArg Executed.value (Option.some.inj h)
  | addi | slti | sltiu | xori | ori | andi => exact aluExecuted_of_quiet rfl rfl h
  | add | sub | sll | slt | sltu | xor | srl | sra | or | and => exact aluExecuted_of_quiet rfl rfl h
  | slli rd rs1 imm | srli rd rs1 imm | srai rd rs1 imm => exact aluExecuted_of_quiet rfl (by rw [alu, shiftAmount_shamtOf]) h
  | addiw rd rs1 imm => exact aluExecuted_of_quiet rfl (congrArg sext32 ((low32_add ..).trans (congrArg _ (low32_imm12 imm)))) h
  | addw => exact aluExecuted_of_quiet rfl (congrArg sext32 (low32_add ..)) h
  | subw => exact aluExecuted_of_quiet rfl (congrArg sext32 (low32_sub ..)) h
  | slliw rd rs1 imm => exact aluExecuted_of_quiet rfl (sllWord_eq_sllwResult a (shiftAmount_shamtOf imm)) h
  | srliw rd rs1 imm => exact aluExecuted_of_quiet rfl (srlWord_eq_srlwResult a (shiftAmount_shamtOf imm)) h
  | sraiw rd rs1 imm => exact aluExecuted_of_quiet rfl (sraWord_eq_srawResult a (shiftAmount_shamtOf imm)) h
  | sllw => exact aluExecuted_of_quiet rfl (sllWord_eq_sllwResult a rfl) h
  | srlw => exact aluExecuted_of_quiet rfl (srlWord_eq_srlwResult a rfl) h
  | sraw => exact aluExecuted_of_quiet rfl (sraWord_eq_srawResult a rfl) h
  | mul => exact aluExecuted_of_quiet rfl (by rw [alu, BitVec.ofInt_mul, BitVec.ofInt_toInt, BitVec.ofInt_toInt]) h
  | mulh => exact aluExecuted_of_quiet rfl (highHalf_mul ..) h
  | mulhsu => exact aluExecuted_of_quiet rfl (by rw [alu, highHalf_mul, ofInt_toNat, BitVec.signExtend]) h
  | mulhu => exact aluExecuted_of_quiet rfl (by rw [alu, highHalf_mul, ofInt_toNat, ofInt_toNat]) h
  | mulw => exact aluExecuted_of_quiet rfl (congrArg sext32 (low32_mul ..)) h
  | div => exact aluExecuted_of_faults (aluFaults_div_rem s a b).1 (divSigned_eq_sdiv a b) h
  | rem => exact aluExecuted_of_faults (aluFaults_div_rem s a b).2 (remSigned_eq_srem a b) h
  | divu => exact aluExecuted_of_quiet rfl (divUnsigned_eq_udiv a b) h
  | remu => exact aluExecuted_of_quiet rfl (remUnsigned_eq_umod a b) h
  | divw => exact aluExecuted_of_faults (aluFaults_divw_remw s a b).1 (divSignedWord_eq_sdiv a b) h
  | remw => exact aluExecuted_of_faults (aluFaults_divw_remw s a b).2 (remSignedWord_eq_srem a b) h
  | divuw => exact aluExecuted_of_quiet rfl (divUnsignedWord_eq_udiv a b) h
  | remuw => exact aluExecuted_of_quiet rfl (remUnsignedWord_eq_umod a b) h
  | lb | lh | lw | ld | lbu | lhu | lwu | sb | sh | sw | sd => cases h
  | jal | jalr | beq | bne | blt | bge | bltu | bgeu | ecall | ebreak => cases h

end

/-! ### What M receives (R261) -/

section
variable {s t : State} (h : s.ticks t)
include h

/-- M receives what Execute gave of the instruction in E. -/
theorem State.ticks.ml_of_executed (valid : s.el.valid = true) (untagged : s.el.exc = none) {i : Instr}
    (holds : s.el.d.sub = .instr i) :
    t.ml = latchExecuted (emptyResult s.el) (executeInstr s.cfg i s.el.a s.el.b s.el.pc) := by
  rw [ticks_ml h, eStage_active _ _ valid untagged, holds]
  rfl

theorem State.ticks.ml_of_idle (idle : s.el.valid = false ∨ s.el.exc ≠ none) : t.ml = emptyResult s.el := by
  rw [ticks_ml h, eStage_idle _ _ idle]
  rfl

/-- What does nothing in Execute is handed on as it is. -/
theorem State.ticks.ml_of_nothing (quiet : executeDecoded s.cfg s.el.d.sub s.el.a s.el.b s.el.pc = .nothing) :
    t.ml = emptyResult s.el := by
  by_cases active : s.el.valid = true ∧ s.el.exc = none
  · rw [ticks_ml h, eStage_active _ _ active.1 active.2, quiet]
    rfl
  · exact h.ml_of_idle (by simpa [or_iff_not_imp_left] using active)

theorem State.ticks.executeHandsOn : ExecuteHandsOn s t where
  idle := h.ml_of_idle
  quiet := by rintro (sub | sub | sub) <;> exact h.ml_of_nothing (by rw [sub]; rfl)
  results valid untagged i v holds result := by
    rw [h.ml_of_executed valid untagged holds, executeInstr_of_resultOf result]
    split <;> rfl
  jal valid untagged rd off := h.ml_of_executed valid untagged
  jalr valid untagged rd rs1 imm := h.ml_of_executed valid untagged
  branches valid untagged rs1 rs2 off := by
    have executed {i : Instr} := h.ml_of_executed valid untagged (i := i)
    simp only [branchConditions, List.forall_mem_cons, ← takenBge_eq_not_slt]
    exact ⟨executed, executed, executed, executed, executed, executed, nofun⟩
  loads valid untagged rd rs1 imm := by
    have executed {i : Instr} := h.ml_of_executed valid untagged (i := i)
    simp only [List.forall_mem_cons]
    exact ⟨executed, executed, executed, executed, executed, executed, executed, nofun⟩
  stores valid untagged rs1 rs2 imm := by
    have executed {i : Instr} := h.ml_of_executed valid untagged (i := i)
    simp only [List.forall_mem_cons]
    exact ⟨executed, executed, executed, executed, nofun⟩
  ebreak valid untagged := h.ml_of_executed valid untagged

end

/-! ### What W receives, and memory (R260) -/

/-- A read that is done read bytes that may be read (R45). -/
theorem readable_of_memRead_ok {s : State} {a v : Word} {n : Nat} (h : memRead s.cfg s.mem a n = .ok v) :
    readable s a.toNat n = true := by
  simp only [readable_iff, ← byteAllowed_read]
  unfold memRead at h
  split at h
  · cases h
  · rename_i allowed
    exact (firstFault_eq_none ..).1 allowed

theorem isLoad_eq_isSome_loadKindOf (d : Decoded) : d.isLoad = (loadKindOf d).isSome := by
  cases d with
  | instr i => cases i <;> rfl
  | unimplemented => rfl
  | nothing => rfl

theorem loadKindOf_eq_none_of_store {d : Decoded} {k : StoreKind} (h : storeKindOf d = some k) : loadKindOf d = none := by
  unfold storeKindOf at h
  split at h
  case h_5 => cases h
  all_goals rfl

/-- Everything the M stage does where it goes on: nothing; a load; or a store. -/
theorem mStage_ok_cases {c : Config} {m m' : Memory} {l l' : MemoryLatch}
    (h : mStage c m l = .ok { mem := m', wn := l' }) :
    (m' = m ∧ l' = l ∧
      ((l.valid = false ∨ l.exc ≠ none) ∨ loadKindOf l.d.sub = none ∧ storeKindOf l.d.sub = none)) ∨
    (∃ k v, loadKindOf l.d.sub = some k ∧ l.valid = true ∧ l.exc = none ∧ memRead c m l.addr k.bytes = .ok v ∧
      m' = m ∧ l' = { l with value := k.extend v }) ∨
    (∃ k, storeKindOf l.d.sub = some k ∧ l.valid = true ∧ l.exc = none ∧
      memWrite c m l.addr k.bytes l.sdata = .ok m' ∧ l' = l) := by
  by_cases active : l.valid = true ∧ l.exc = none
  · obtain ⟨valid, untagged⟩ := active
    cases load : loadKindOf l.d.sub with
    | some k =>
      rw [mStage_load load valid untagged] at h
      cases read : memRead c m l.addr k.bytes with
      | error e => rw [read] at h; cases h
      | ok v =>
        rw [read] at h
        cases h
        exact .inr (.inl ⟨k, v, rfl, valid, untagged, read, rfl, rfl⟩)
    | none =>
      cases store : storeKindOf l.d.sub with
      | some k =>
        rw [mStage_store load store valid untagged] at h
        cases write : memWrite c m l.addr k.bytes l.sdata with
        | error e => rw [write] at h; cases h
        | ok m' =>
          rw [write] at h
          cases h
          exact .inr (.inr ⟨k, rfl, valid, untagged, write, rfl⟩)
      | none =>
        rw [mStage_noAccess load store] at h
        cases h
        exact .inl ⟨rfl, rfl, .inr ⟨rfl, rfl⟩⟩
  · rw [mStage, if_neg active] at h
    cases h
    exact .inl ⟨rfl, rfl, .inl (by simpa [or_iff_not_imp_left] using active)⟩

section
variable {s t : State} (h : s.ticks t)
include h

/-- A load in M hands on the value of its bytes, extended (43_loads_stores.md R171). -/
theorem State.ticks.wl_of_load (valid : s.ml.valid = true) (untagged : s.ml.exc = none) {k : LoadKind}
    (kind : loadKindOf s.ml.d.sub = some k) {x : BitVec (8 * k.bytes)}
    (value : readLE t.cfg t.mem s.ml.addr.toNat k.bytes = x.toNat) :
    readable t s.ml.addr.toNat k.bytes = true ∧ t.wl = { s.ml with value := k.widened x } := by
  obtain ⟨u, ecall, stages⟩ := h.through
  have m := stages.memory
  rw [mStage_load kind valid untagged] at m
  cases read : memRead s.cfg u.mem s.ml.addr k.bytes with
  | error e => rw [read] at m; cases m
  | ok v =>
    rw [read] at m
    obtain ⟨mem, wl⟩ : u.mem = t.mem ∧ { s.ml with value := k.extend v } = t.wl := by simpa [Except.map] using m
    rw [mem, ← stages.cfg] at read
    have allowed := readable_of_memRead_ok read
    rw [memRead_of_readable allowed value] at read
    cases read
    exact ⟨allowed, by rw [← wl, k.extend_setWidth]⟩

theorem State.ticks.memoryHandsOn : MemoryHandsOn s t := by
  obtain ⟨u, ecall, stages⟩ := h.through
  have written {u' : State} {ecall' : Bool} (w : wStage s = .goesOn u' ecall') : u' = u := by
    cases w.symm.trans stages.writeback
    rfl
  have access := mStage_ok_cases stages.memory
  refine ⟨fun passes => ?passes, fun valid untagged rd rs1 imm => ?loads,
    fun u' ecall' w valid untagged k store => ?stores, fun u' ecall' w noStore => ?keeps⟩
  case passes =>
    obtain ⟨-, same, -⟩ | ⟨k, v, load, valid, untagged, -⟩ | ⟨k, -, -, -, -, same⟩ := access
    · exact same
    · simp [isLoad_eq_isSome_loadKindOf, valid, untagged, load] at passes
    · exact same
  case loads =>
    have loads {k : LoadKind} {x : BitVec (8 * k.bytes)} := h.wl_of_load valid untagged (k := k) (x := x)
    exact ⟨fun sub => loads (k := .lb) (sub ▸ rfl) (readLE_one ..),
      fun sub => loads (k := .lbu) (sub ▸ rfl) (readLE_one ..),
      fun sub => loads (k := .lh) (sub ▸ rfl) (readLE_two ..),
      fun sub => loads (k := .lhu) (sub ▸ rfl) (readLE_two ..),
      fun sub => loads (k := .lw) (sub ▸ rfl) (readLE_four_bytes ..),
      fun sub => loads (k := .lwu) (sub ▸ rfl) (readLE_four_bytes ..),
      fun sub => loads (k := .ld) (sub ▸ rfl) (readLE_eight ..)⟩
  case stores =>
    obtain rfl := written w
    obtain ⟨-, -, idle⟩ | ⟨k', v, load, -⟩ | ⟨k', store', -, -, write, -⟩ := access
    · simp [valid, untagged, store] at idle
    · rw [loadKindOf_eq_none_of_store store] at load; cases load
    · cases store.symm.trans store'
      exact write
  case keeps =>
    obtain rfl := written w
    obtain ⟨same, -⟩ | ⟨k, v, -, -, -, -, same, -⟩ | ⟨k, store, valid, untagged, -⟩ := access
    · exact same
    · exact same
    · simp [valid, untagged, store] at noStore

end

/-! ### What Decode and Fetch give (R262, R265) -/

section
variable {s : State} (t : State)

theorem State.decodeStage_of_bubble (invalid : s.dl.valid = false) :
    s.decodeStage t = { en := .bubble, jalr := false, jt := 0 } := by
  rw [State.decodeStage, dStage, if_pos invalid]

theorem State.decodeStage_of_tag (valid : s.dl.valid = true) (tagged : s.dl.exc ≠ none) :
    s.decodeStage t = {
      en := { valid := true, pc := s.dl.pc, d := .nothing, a := 0, b := 0, ptaken := false, exc := s.dl.exc }
      jalr := false
      jt := 0 } := by
  rw [State.decodeStage, dStage, if_neg (by simp [valid]), if_pos tagged]

/-- The operand that Decode resolves in a cycle from `s` to `t` (R263). -/
def State.operandFor (s t : State) : Option Reg → Word := operand { s with regs := t.regs } t.ml t.wl

theorem State.decodeStage_of_word (valid : s.dl.valid = true) (untagged : s.dl.exc = none) :
    s.decodeStage t =
      let d := decodeRecord s.dl.raw
      let a := s.operandFor t d.sub.src1
      { en := { valid := true, pc := s.dl.pc, d := d, a := a, b := s.operandFor t d.sub.src2, ptaken := s.dl.ptaken,
                exc := none }
        jalr := d.sub.isJalr
        jt := decodeTarget d.sub a } := by
  rw [State.decodeStage, dStage, if_neg (by simp [valid]), if_neg (by simp [untagged])]
  rfl

theorem State.fetchStage_of_word {t : State} {w : InstWord} (fetched : memFetch s.cfg t.mem s.fl.pc = .ok w) :
    s.fetchStage t =
      let p := predict s.cfg.bp s.fl.pc w
      { dn := { valid := true, pc := s.fl.pc, raw := w, ptaken := p.taken, exc := none }, pnext := p.next } := by
  simp only [State.fetchStage, fStage, fetched]

theorem State.fetchStage_of_stop {t : State} {e : StopReason} (fetched : memFetch s.cfg t.mem s.fl.pc = .error e) :
    s.fetchStage t =
      { dn := { valid := true, pc := s.fl.pc, raw := 0, ptaken := false, exc := some e }, pnext := s.fl.pc + 4 } := by
  simp only [State.fetchStage, fStage, fetched]

end

section
variable {s t : State} (h : s.ticks t)
include h

/-- The instruction that E received, with its operands, is the untagged one of D (R262). -/
theorem State.ticks.el_of_valid (valid : t.el.valid = true) (untagged : t.el.exc = none) :
    s.dl.valid = true ∧ s.dl.exc = none ∧ t.el = (s.decodeStage t).en := by
  obtain empty | ⟨-, el⟩ := h.el_cases
  · rw [empty] at valid; cases valid
  cases inD : s.dl.valid with
  | false => rw [el, State.decodeStage_of_bubble t inD] at valid; cases valid
  | true =>
    by_cases tag : s.dl.exc = none
    · exact ⟨rfl, tag, el⟩
    · rw [el, State.decodeStage_of_tag t inD tag] at untagged
      exact absurd untagged tag

end

/-- Settles O53: the operands are those of Decode (`State.decodeStage_of_word`), and the multiplexer is written out in the
statement. -/
theorem operandsAreForwarded : Obligations.OperandsAreForwarded := by
  intro s t r h valid untagged v
  obtain ⟨inD, noTag, el⟩ := h.el_of_valid valid untagged
  rw [State.decodeStage_of_word t inD noTag] at el
  have operand_eq : s.operandFor t (some r) = v := rfl
  rw [el]
  exact ⟨rfl, rfl, fun src => by rw [← operand_eq, ← src], fun src => by rw [← operand_eq, ← src],
    fun src => congrArg (s.operandFor t) src, fun src => congrArg (s.operandFor t) src⟩

/-- The address that a squash sends Fetch to (R261, R268). -/
theorem eStage_corr (c : Config) {e : ExecuteLatch} (valid : e.valid = true) (untagged : e.exc = none) :
    (eStage c e).corr = if (eStage c e).mn.taken then (eStage c e).mn.target else e.pc + 4 := by
  rw [eStage, if_pos ⟨valid, untagged⟩]

/-- Settles O52: the four cases of the controller (`State.ticks.front_of_squash` and the others), with what Decode and Fetch
give for each kind of D and F latch. -/
theorem controllerTable : Obligations.ControllerTable := by
  intro s t h decoded
  have decodes (valid : s.dl.valid = true) (untagged : s.dl.exc = none) (el : t.el = (s.decodeStage t).en) : decoded := by
    rw [State.decodeStage_of_word t valid untagged] at el
    unfold decoded
    rw [el]
    exact ⟨rfl, rfl, rfl, rfl, rfl⟩
  refine ⟨h.executeHandsOn, h.memoryHandsOn, fun squash => ?squash, fun goes stall => ?stall,
    fun goes flows redirect => ?redirect, fun normal => ?normal⟩
  case squash =>
    obtain ⟨fl, dl, el⟩ := NextLatches.mk.inj (h.front_of_squash squash)
    obtain ⟨valid, untagged, -⟩ := squash
    rw [fl, ticks_ml h]
    exact ⟨eStage_corr _ valid untagged, dl, el⟩
  case stall => exact NextLatches.mk.inj (h.front_of_stall goes stall)
  case redirect =>
    obtain ⟨fl, dl, el⟩ := NextLatches.mk.inj (h.front_of_redirect goes flows redirect)
    obtain ⟨valid, untagged, -⟩ := redirect
    refine ⟨fun rd rs1 imm jalr => ?_, dl, decodes valid untagged el⟩
    rw [fl, el, State.decodeStage_of_word t valid untagged]
    show decodeTarget (decode s.dl.raw) _ = _
    rw [jalr]
    rfl
  case normal =>
    obtain ⟨fl, dl, el⟩ := NextLatches.mk.inj normal.front
    refine ⟨?_, fun invalid => ?_, fun valid tagged => ?_, fun valid untagged => decodes valid untagged el⟩
    · cases fetched : memFetch s.cfg t.mem s.fl.pc with
      | ok w =>
        rw [fl, dl, State.fetchStage_of_word fetched]
        exact ⟨rfl, rfl⟩
      | error e =>
        rw [fl, dl, State.fetchStage_of_stop fetched]
        exact ⟨rfl, rfl⟩
    · rw [el, State.decodeStage_of_bubble t invalid]
    · rw [el, State.decodeStage_of_tag t valid tagged]

/-! ### The branch predictor (R266) -/

/-- The field that the predictor reads is the offset of the JAL (30_encoding.md R77). -/
theorem predict_of_jal (bp : BranchPrediction) (pc : Word) {w : InstWord} {rd : Reg} {off : BitVec 21}
    (jal : decode w = .instr (.jal rd off)) : predict bp pc w = { taken := true, next := pc + off.signExtend 64 } := by
  have field : fieldJ w = off := by
    rw [← (encodeOfDecode w _ jal).2]
    exact fieldJ_encodeJ _ _ (jal_offset_even jal)
  simp only [predict, jal, field]
  rfl

theorem isJal_eq_false_of_isBranch {d : Decoded} (branch : d.isBranch = true) : d.isJal = false := by
  unfold Decoded.isBranch at branch
  split at branch
  case h_7 => cases branch
  all_goals rfl

theorem predict_of_branch (bp : BranchPrediction) (pc : Word) {w : InstWord} (branch : (decode w).isBranch = true) :
    predict bp pc w = {
      taken := predictTaken bp (w.getLsbD 31)
      next := pc + if predictTaken bp (w.getLsbD 31) then (fieldB w).signExtend 64 else 4 } := by
  have noJal := isJal_eq_false_of_isBranch branch
  simp only [predict, noJal, branch, Bool.true_and]
  cases predictTaken bp (w.getLsbD 31) <;> rfl

theorem predict_of_other (bp : BranchPrediction) (pc : Word) {w : InstWord} (noBranch : (decode w).isBranch = false)
    (noJal : (decode w).isJal = false) : predict bp pc w = { taken := false, next := pc + 4 } := by
  simp [predict, noBranch, noJal]

/-- Settles O54: in the normal case D receives the fetched word with its prediction (`State.normalCycle.front`), and `predict` is
by the kind of the word. -/
theorem fetchPredicts : Obligations.FetchPredicts := by
  intro s t w normal fetched
  obtain ⟨fl, dl, -⟩ := NextLatches.mk.inj normal.front
  rw [State.fetchStage_of_word fetched] at fl dl
  rw [fl, dl]
  refine ⟨rfl, rfl, rfl, rfl, fun rd off jal => ?jal, fun branch => ?branch, fun noBranch noJal => ?other⟩
  case jal => rw [predict_of_jal _ _ jal]; exact ⟨rfl, rfl⟩
  case branch => rw [predict_of_branch _ _ branch]; exact ⟨rfl, rfl⟩
  case other => rw [predict_of_other _ _ noBranch noJal]; exact ⟨rfl, rfl⟩

/-! ### The way of a tag (R276, R283) -/

/-- A tag in W stops the run there (R259, R276). -/
theorem step_of_tag_in_W {s : State} {e : StopReason} (mode : s.cfg.mode = .pipelined) (running : s.runs = true)
    (valid : s.wl.valid = true) (tagged : s.wl.exc = some e) :
    step s = .next { s with
      stop := some { reason := e, instPc := s.wl.pc }, cycles := s.cycles + 1, resuming := false } := by
  obtain ⟨-, notHeld⟩ := ended_hold_of_runs running
  rw [step_of_runs running, engineStep, mode]
  simp [cycle, wStage_tagged valid tagged, afterStep, State.endResume, State.raise, State.addCycles, notHeld]

/-- Settles O57: a tag is raised in W alone; each stage before it hands it on, and does nothing else for its instruction. -/
theorem taggedInstructionStopsInWriteback : Obligations.TaggedInstructionStopsInWriteback := by
  refine ⟨fun s e mode running valid tagged => step_of_tag_in_W mode running valid tagged,
    fun s t h valid tagged inE => ?decode, fun s t h valid tagged => ?execute, fun s t h valid tagged => ?memory,
    fun s t e normal fetched => ?fetch⟩
  case decode =>
    obtain empty | ⟨-, el⟩ := h.el_cases
    · rw [empty] at inE; cases inE
    · rw [el, State.decodeStage_of_tag t valid (Option.isSome_iff_ne_none.1 tagged)]
      exact ⟨rfl, rfl⟩
  case execute =>
    rw [h.ml_of_idle (.inr (Option.isSome_iff_ne_none.1 tagged))]
    rfl
  case memory =>
    have noAccess := Option.isSome_iff_ne_none.1 tagged
    obtain ⟨passes, -, -, keeps⟩ := h.memoryHandsOn
    exact ⟨passes (.inr (.inl noAccess)), fun u b w => keeps u b w (.inr (.inl noAccess))⟩
  case fetch =>
    obtain ⟨-, dl, -⟩ := NextLatches.mk.inj normal.front
    rw [dl, State.fetchStage_of_stop fetched]
    exact ⟨rfl, rfl, rfl⟩

end Sys2Proof.Machine
end

section
/-! PROOFS. What a cycle adds to CYCLES (70_reset_and_hazards.md R272), and the first cycle after a launch (R277). -/

namespace Sys2Proof.Machine

/-! ### How a cycle ends -/

/-- Where the W stage finishes the run, an ECALL was done there. -/
theorem wStage_finished {s u : State} (h : wStage s = .finished u) :
    u.stop = s.stop ∧ u.hold = s.hold ∧ u.cycles = s.cycles ∧ u.finished = true := by
  cases valid : s.wl.valid with
  | false => rw [wStage_invalid valid] at h; cases h
  | true =>
    cases tag : s.wl.exc with
    | some e => rw [wStage_tagged valid tag] at h; cases h
    | none =>
      cases ecall : s.wl.d.sub.isEcall with
      | true =>
        rw [wStage_of_ecall valid tag ecall] at h
        cases effect : ecallEffect s with
        | holds => rw [effect] at h; cases h
        | stops e out => rw [effect] at h; cases h
        | done res t =>
          obtain ⟨-, -, stop, hold, -, cycles, -⟩ := ecallEffect_fields effect
          rw [effect] at h
          dsimp only at h
          split at h <;> cases h
          rename_i exits
          exact ⟨stop, hold, cycles, exits⟩
      | false =>
        rw [wStage_of_commit valid tag ecall] at h
        split at h <;> cases h

/-- How a cycle of a run that is going on ends, and what it adds to CYCLES unless it ticks (R272): it holds; it stops; it exits;
or it ticks. -/
inductive CycleEnd (s t : State) : Prop where
  | holds (hold : t.hold = true) (stop : t.stop = none) (finished : t.finished = false) (cycles : t.cycles = s.cycles)
  | stops (hold : t.hold = false) (stop : t.stop.isSome = true) (finished : t.finished = false)
      (cycles : t.cycles = s.cycles + 1)
  | exits (hold : t.hold = false) (stop : t.stop = none) (finished : t.finished = true)
      (cycles : t.cycles = s.cycles + BitVec.ofNat 64 (1 + s.cfg.sysLat))
  | ticks (hold : t.hold = false) (stop : t.stop = none) (finished : t.finished = false)

theorem cycle_end {s t : State} (ended : s.ended = false) (notHeld : s.hold = false) (h : cycle s = .next t) :
    CycleEnd s t := by
  obtain ⟨finished, stop⟩ : s.finished = false ∧ s.stop = none := by simpa [State.ended] using ended
  obtain w | ⟨e, out, w, -⟩ | ⟨u, w, -⟩ | ⟨u, b, w, sameFinished⟩ := wStage_cases s
  all_goals rw [cycle, w] at h
  · cases h
    exact .holds rfl stop finished rfl
  · cases h
    exact .stops notHeld rfl finished rfl
  · obtain ⟨sameStop, sameHold, cycles, exits⟩ := wStage_finished w
    cases h
    exact .exits (sameHold.trans notHeld) (sameStop.trans stop) exits (congrArg (· + _) cycles)
  · obtain ⟨-, sameStop, sameHold, cycles, -⟩ := wStage_goesOn w
    dsimp only at h
    split at h
    · cases h
      exact .stops (sameHold.trans notHeld) rfl (sameFinished.trans finished) (congrArg (· + _) cycles)
    · cases h
      exact .ticks (sameHold.trans notHeld) (sameStop.trans stop) (sameFinished.trans finished)

/-- The mark of a resumption, which the step ends, plays no part. -/
theorem step_end {s t : State} (mode : s.cfg.mode = .pipelined) (running : s.runs = true) (h : step s = .next t) :
    CycleEnd s t := by
  obtain ⟨ended, hold⟩ := ended_hold_of_runs running
  rw [step_of_runs running, engineStep, mode] at h
  obtain ⟨u, next, -⟩ := cycle_answers s
  rw [next] at h
  cases h
  cases cycle_end ended hold next with
  | holds hold stop finished cycles => exact .holds hold stop finished cycles
  | stops hold stop finished cycles => exact .stops hold stop finished cycles
  | exits hold stop finished cycles => exact .exits hold stop finished cycles
  | ticks hold stop finished => exact .ticks hold stop finished

/-! ### The charges of a tick -/

theorem isMulOp_eq_false_of_isDivOp {d : Decoded} (div : d.isDivOp = true) : d.isMulOp = false := by
  unfold Decoded.isDivOp at div
  split at div
  case h_9 => cases div
  all_goals rfl

/-- The charge of E is a sum, since no instruction both multiplies and divides (30_encoding.md R85). -/
theorem executeCharge_eq_add (c : Config) (e : ExecuteLatch) (mn : MemoryLatch) :
    executeCharge c e mn =
      (if e.valid = true ∧ e.exc = none ∧ e.d.sub.isMulOp = true then c.mulLat else 0) +
      (if e.valid = true ∧ e.exc = none ∧ e.d.sub.isDivOp = true ∧ mn.exc = none then c.divLat else 0) := by
  by_cases active : e.valid = true ∧ e.exc = none
  · obtain ⟨valid, untagged⟩ := active
    cases div : e.d.sub.isDivOp with
    | true => simp [executeCharge, valid, untagged, div, isMulOp_eq_false_of_isDivOp div]
    | false => simp [executeCharge, valid, untagged, div]
  · have idle (p : Prop) : ¬(e.valid = true ∧ e.exc = none ∧ p) := fun ⟨valid, untagged, _⟩ =>
      active ⟨valid, untagged⟩
    rw [executeCharge, if_neg active, if_neg (idle _), if_neg (idle _)]

theorem memoryCharge_eq (c : Config) (l : MemoryLatch) :
    memoryCharge c l =
      if l.valid = true ∧ l.exc = none then
        match loadKindOf l.d.sub, storeKindOf l.d.sub with
        | some k, _ => memLatency c .read l.addr k.bytes
        | none, some k => memLatency c .write l.addr k.bytes
        | none, none => 0
      else 0 := by
  unfold memoryCharge
  cases loadKindOf l.d.sub <;> cases storeKindOf l.d.sub <;> rfl

theorem fetchCharge_eq (s t : State) :
    fetchCharge s.cfg s.fl (s.fetchStage t).dn =
      match memFetch s.cfg t.mem s.fl.pc with
      | .ok _ => memLatency s.cfg .fetch s.fl.pc 4
      | .error _ => 0 := by
  cases fetched : memFetch s.cfg t.mem s.fl.pc with
  | ok w => rw [State.fetchStage_of_word fetched]; rfl
  | error e => rw [State.fetchStage_of_stop fetched]; rfl

/-- The charge of a tick, latency by latency (R272). -/
theorem State.ticks.charge {s t : State} (h : s.ticks t) :
    t.cycles = s.cycles + BitVec.ofNat 64 (1 + executeCharge s.cfg s.el t.ml +
      (if s.wl.valid = true ∧ s.wl.d.sub = .instr .ecall then s.cfg.sysLat else 0) + memoryCharge s.cfg s.ml +
      fetchCharge s.cfg s.fl (s.fetchStage t).dn) := by
  obtain ⟨u, ecall, stages⟩ := h.through
  have inW : ecall = true ↔ s.wl.valid = true ∧ s.wl.d.sub = .instr .ecall := by
    rw [wStage_goesOn_ecall stages.writeback, Bool.and_eq_true, isEcall_iff]
  simp only [stages.charge, inW]

/-- Settles O55: a cycle that does not tick ends in one of three ways (`step_end`), and one that ticks has
`State.ticks.charge`. -/
theorem cyclesCharge : Obligations.CyclesCharge := by
  intro s t mode h
  refine ⟨fun still => ?still, fun running stopped => ?stops, fun running exited => ?exits, fun ticks => ?ticks⟩
  case still =>
    obtain ⟨running, -⟩ | ⟨-, idle | paused⟩ := step_cases s
    · have held : t.hold = true := still.resolve_left (by simp [running])
      cases step_end mode running h with
      | holds _ _ _ cycles => exact cycles
      | _ => simp_all
    · cases idle.symm.trans h; rfl
    · cases paused.symm.trans h; rfl
  case stops =>
    cases step_end mode running h with
    | stops _ _ _ cycles => exact cycles
    | _ => simp_all
  case exits =>
    cases step_end mode running h with
    | exits _ _ _ cycles => exact cycles
    | _ => simp_all
  case ticks =>
    have charge := ticks.charge
    rw [executeCharge_eq_add, memoryCharge_eq, fetchCharge_eq, ← Nat.add_assoc 1] at charge
    exact charge

/-! ### The first cycle -/

/-- With nothing in E, M and W and no JALR in D, a cycle that ticks is in the controller's normal case (R268). -/
theorem State.ticks.normal_of_bubbles {s t : State} (h : s.ticks t) (e : s.el.valid = false) (m : s.ml.valid = false)
    (w : s.wl.valid = false) (d : s.dl.valid = false) : s.normalCycle t := by
  refine ⟨h, ?_, ?_, ?_, ?_⟩
  · simp [State.squashes, e]
  · simp [State.loadUseHazard, e]
  · simp [State.syscallBarrier, e, m, w]
  · simp [State.jalrInDecode, d]

/-- The first cycle of a launched machine ticks, and only moves latches and CYCLES (R277). -/
theorem State.initial_ticks (c : Config) (m : Memory) (draw : Vector Word 32) (mode : c.mode = .pipelined) :
    ∃ t, (State.initial c m [] draw).ticks t ∧ t.regs = (State.initial c m [] draw).regs ∧ t.mem = m ∧ t.icount = 0 := by
  have unbroken : RunsAt c.entry (State.initial c m [] draw) := ⟨mode, rfl, rfl, rfl⟩
  obtain ⟨t, stepped, same, -⟩ := execute_cycle unbroken rfl rfl rfl
  have kept := unbroken.of_architecture_eq same
  have unpaused : (State.initial c m [] draw).atCheckPoint = false := by rw [State.atCheckPoint, unbroken.mode]; rfl
  exact ⟨t, ⟨mode, runs_of_unpaused rfl rfl (.inl unpaused), stepped, kept.hold, kept.ended⟩,
    agree_of_architecture_eq State.regs same, agree_of_architecture_eq State.mem same,
    agree_of_architecture_eq State.icount same⟩

/-- Settles O59: the first cycle is a normal one (`State.ticks.normal_of_bubbles`), and E, M and W pass their bubbles on. -/
theorem warmupCycle : Obligations.WarmupCycle := by
  intro c m draw s w mode launched fetched
  obtain ⟨-, -, rfl⟩ := (launch_next_iff ..).1 launched
  obtain ⟨t, h, regs, mem, icount⟩ := State.initial_ticks c m draw mode
  have ⟨_, _, stepped, _⟩ := h
  have normal := h.normal_of_bubbles rfl rfl rfl rfl
  rw [← mem] at fetched
  obtain ⟨valid, pc, raw, untagged, -⟩ := fetchPredicts _ t w normal fetched
  have noE : t.el.valid = false := by
    obtain ⟨-, -, el⟩ := NextLatches.mk.inj normal.front
    rw [el, State.decodeStage_of_bubble t rfl]
    rfl
  have cycles : t.cycles = BitVec.ofNat 64 (1 + memLatency c .fetch c.entry 4) := by
    rw [h.charge, State.fetchStage_of_word fetched]
    simp [executeCharge, memoryCharge, fetchCharge, State.initial, ExecuteLatch.bubble, MemoryLatch.bubble]
  exact ⟨t, stepped, valid, pc, raw, untagged, noE, h.ml_of_idle (.inl rfl), h.memoryHandsOn.passes (.inl rfl), icount, regs,
    mem, cycles⟩

end Sys2Proof.Machine
end

section
/-! PROOFS. The strategy BP has no architectural effect in a step (70_reset_and_hazards.md R270, R278): every operation but the
predictor does the same under another strategy, and what Fetch predicts reaches the F, D and E latches alone. -/

namespace Sys2Proof.Machine

/-- The state with another prediction strategy (R266). -/
def State.withStrategy (bp : BranchPrediction) (s : State) : State := { s with cfg := { s.cfg with bp := bp } }

section
variable (bp : BranchPrediction) (s : State)

@[simp] theorem State.withStrategy_cfg : (s.withStrategy bp).cfg = { s.cfg with bp := bp } := rfl
@[simp] theorem State.withStrategy_mem : (s.withStrategy bp).mem = s.mem := rfl
@[simp] theorem State.withStrategy_heap : (s.withStrategy bp).heap = s.heap := rfl
@[simp] theorem State.withStrategy_input : (s.withStrategy bp).input = s.input := rfl
@[simp] theorem State.withStrategy_wl : (s.withStrategy bp).wl = s.wl := rfl
@[simp] theorem State.withStrategy_reg (r : Reg) : (s.withStrategy bp).reg r = s.reg r := rfl

end

/-! ### Memory -/

section
variable (c : Config) (bp : BranchPrediction) (m : Memory)

theorem firstFault_strategy (k : AccessKind) (a n : Nat) :
    firstFault { c with bp := bp } m k a n = firstFault c m k a n := by
  induction n generalizing a with
  | zero => rfl
  | succ n ih => rw [firstFault, ih]; rfl

theorem readLE_strategy (a n : Nat) : readLE { c with bp := bp } m a n = readLE c m a n := by
  induction n generalizing a with
  | zero => rfl
  | succ n ih => rw [readLE, ih]; rfl

theorem writeLE_strategy (a n : Nat) (v : Word) : writeLE { c with bp := bp } m a n v = writeLE c m a n v := by
  induction n generalizing m a v with
  | zero => rfl
  | succ n ih => rw [writeLE, ih]; rfl

theorem memRead_strategy (a : Word) (n : Nat) : memRead { c with bp := bp } m a n = memRead c m a n := by
  rw [memRead, firstFault_strategy, readLE_strategy, memRead]

theorem memWrite_strategy (a : Word) (n : Nat) (v : Word) : memWrite { c with bp := bp } m a n v = memWrite c m a n v := by
  rw [memWrite, firstFault_strategy, writeLE_strategy, memWrite]

theorem memFetch_strategy (a : Word) : memFetch { c with bp := bp } m a = memFetch c m a := by
  rw [memFetch, firstFault_strategy, readLE_strategy, memFetch]

theorem stringWalk_strategy (fuel : Nat) (p : Word) : stringWalk { c with bp := bp } m fuel p = stringWalk c m fuel p := by
  induction fuel generalizing p with
  | zero => rfl
  | succ fuel ih => rw [stringWalk, memRead_strategy, ih]; rfl

end

/-! ### The shared operations -/

section
variable (bp : BranchPrediction)

theorem State.setReg_strategy (r : Reg) (v : Word) (s : State) :
    (s.withStrategy bp).setReg r v = (s.setReg r v).withStrategy bp := by
  unfold State.setReg
  split <;> rfl

theorem State.alloc_strategy (p : Nat) (w x : Bool) (s : State) :
    (s.withStrategy bp).alloc p w x = (s.alloc p w x).withStrategy bp := by
  unfold State.alloc
  rw [State.withStrategy_cfg, State.withStrategy_mem]
  dsimp only
  split
  · cases findPage s.mem.pages p <;> rfl
  · rfl

theorem State.allocPages_strategy (n p : Nat) (s : State) :
    State.allocPages n p (s.withStrategy bp) = (State.allocPages n p s).withStrategy bp := by
  induction n generalizing p s with
  | zero => rfl
  | succ n ih => rw [State.allocPages, State.alloc_strategy, ih]; rfl

/-- The commit (40_execution_step.md R99). -/
theorem commit_strategy (r : Reg) (v : Word) (s : State) :
    commit r v (s.withStrategy bp) = (commit r v s).map (State.withStrategy bp) := by
  unfold commit
  split
  · rfl
  · split
    · rw [State.withStrategy_cfg, State.alloc_strategy, State.setReg_strategy]
      dsimp only
      split <;> rfl
    · rw [State.setReg_strategy]; rfl

/-- The nine services (45_system.md R203-R211). -/
theorem runService_strategy (v : Service) (arg : Word) (s : State) :
    runService v arg (s.withStrategy bp) = (runService v arg s).mapState (State.withStrategy bp) := by
  cases v with
  | printString =>
    simp only [runService, servicePrintString, State.withStrategy_cfg, State.withStrategy_mem, stringWalk_strategy]
    split <;> rfl
  | readInt =>
    simp only [runService, serviceReadInt, State.withStrategy_input]
    split <;> rfl
  | readChar =>
    simp only [runService, serviceReadChar, State.withStrategy_input]
    split <;> rfl
  | sbrk =>
    simp only [runService, serviceSbrk, State.withStrategy_cfg, State.withStrategy_heap, State.allocPages_strategy]
    split <;> rfl
  | printInt | printChar | heapBaseQ | heapMaxQ | exit => rfl

/-- The result commit of an ECALL (45_system.md R200, R211). -/
theorem commitResult_strategy (v : Service) (res : Word) (before after : State) :
    commitResult v res (before.withStrategy bp) (after.withStrategy bp) =
      (commitResult v res before after).mapState (State.withStrategy bp) := by
  unfold commitResult
  rw [commit_strategy, State.withStrategy_cfg]
  cases commit before.cfg.sysResReg res after with
  | error e => rfl
  | ok t => by_cases exits : v = .exit <;> simp [Except.map, ServiceResult.mapState, exits, State.withStrategy]

/-- ECALL's Writeback (45_system.md R200). -/
theorem ecallEffect_strategy (s : State) :
    ecallEffect (s.withStrategy bp) = (ecallEffect s).mapState (State.withStrategy bp) := by
  simp only [ecallEffect, State.withStrategy_cfg, State.withStrategy_reg, runService_strategy]
  cases serviceOf s.cfg.sysno (s.reg s.cfg.sysNumReg) with
  | none => rfl
  | some v =>
    cases h : runService v (s.reg s.cfg.sysArgReg) s with
    | holds => simp [h, ServiceResult.mapState]
    | stops e out => simp [h, ServiceResult.mapState]
    | done res t => simpa [h, ServiceResult.mapState] using commitResult_strategy bp v res s t

/-! ### The atomic engine -/

/-- A next state changed by `f`. -/
def mapNext (f : State → State) : StepOutcome → StepOutcome
  | .next t => .next (f t)
  | .fault e => .fault e
  | .refused r => .refused r

theorem writeback_strategy (rd : Reg) (v npc : Word) (s : State) :
    writeback rd v npc (s.withStrategy bp) = mapNext (State.withStrategy bp) (writeback rd v npc s) := by
  unfold writeback
  rw [commit_strategy]
  cases commit rd v s <;> rfl

theorem finish_strategy (x : Executed) (rd : Reg) (s : State) :
    finish x rd (s.withStrategy bp) = mapNext (State.withStrategy bp) (finish x rd s) := by
  cases x with
  | value v => exact writeback_strategy bp rd v _ s
  | jump link target => exact writeback_strategy bp rd link target s
  | load k ea =>
    simp only [finish, finishLoad, State.withStrategy_cfg, State.withStrategy_mem, memRead_strategy]
    cases memRead s.cfg s.mem ea k.bytes with
    | error e => rfl
    | ok v => exact writeback_strategy bp rd _ _ s
  | store k ea data =>
    simp only [finish, finishStore, State.withStrategy_cfg, State.withStrategy_mem, memWrite_strategy]
    cases memWrite s.cfg s.mem ea k.bytes data <;> rfl
  | branch taken target => rfl
  | stops e => rfl
  | nothing => rfl

theorem exec_strategy (i : Instr) (s : State) :
    exec i (s.withStrategy bp) = mapNext (State.withStrategy bp) (exec i s) := by
  by_cases ecall : i = .ecall
  · subst ecall
    show execEcall (s.withStrategy bp) = mapNext _ (execEcall s)
    unfold execEcall
    rw [ecallEffect_strategy]
    cases ecallEffect s <;> rfl
  · rw [exec_executeInstr i s ecall, exec_executeInstr i _ ecall, ← finish_strategy]
    rfl

theorem atomicStep_strategy (s : State) :
    atomicStep (s.withStrategy bp) = mapNext (State.withStrategy bp) (atomicStep s) := by
  simp only [atomicStep, State.withStrategy_cfg, State.withStrategy_mem]
  rw [show (s.withStrategy bp).pc = s.pc from rfl, memFetch_strategy]
  cases memFetch s.cfg s.mem s.pc with
  | error e => rfl
  | ok w =>
    show execDecoded (decode w) _ = mapNext _ (execDecoded (decode w) s)
    cases decode w with
    | instr i => exact exec_strategy bp i s
    | unimplemented => exact finish_strategy bp .nothing 0 s
    | nothing => exact finish_strategy bp .nothing 0 s

/-! ### The pipelined engine -/

/-- How the W stage ends, with its state changed. -/
def WResult.mapState (f : State → State) : WResult → WResult
  | .holds => .holds
  | .stops e t => .stops e (f t)
  | .finished t => .finished (f t)
  | .goesOn t ecall => .goesOn (f t) ecall

theorem wStage_strategy (s : State) : wStage (s.withStrategy bp) = (wStage s).mapState (State.withStrategy bp) := by
  cases valid : s.wl.valid with
  | false => rw [wStage_invalid valid, wStage_invalid (s := s.withStrategy bp) valid]; rfl
  | true =>
    cases tag : s.wl.exc with
    | some e => rw [wStage_tagged valid tag, wStage_tagged (s := s.withStrategy bp) valid tag]; rfl
    | none =>
      cases ecall : s.wl.d.sub.isEcall with
      | true =>
        rw [wStage_of_ecall valid tag ecall, wStage_of_ecall (s := s.withStrategy bp) valid tag ecall, ecallEffect_strategy]
        cases ecallEffect s with
        | holds => rfl
        | stops e out => rfl
        | done res t =>
          show (if t.finished = true then _ else _) = WResult.mapState _ (if t.finished = true then _ else _)
          split <;> rfl
      | false =>
        rw [wStage_of_commit valid tag ecall, wStage_of_commit (s := s.withStrategy bp) valid tag ecall,
          State.withStrategy_wl, commit_strategy]
        cases commit (s.wl.d.sub.dest.getD 0) s.wl.value s <;> rfl

theorem mStage_strategy (c : Config) (m : Memory) (l : MemoryLatch) : mStage { c with bp := bp } m l = mStage c m l := by
  simp only [mStage, memRead_strategy, memWrite_strategy]

/-- The state with these F, D and E latches. -/
def State.withFront (s : State) (n : NextLatches) : State := { s with fl := n.f, dl := n.d, el := n.e }

/-- Whether a fetch is charged does not depend on the prediction (R272). -/
theorem fetchCharge_strategy (c : Config) (m : Memory) (f : FetchLatch) :
    fetchCharge { c with bp := bp } f (fStage { c with bp := bp } m f).dn = fetchCharge c f (fStage c m f).dn := by
  simp only [fStage, memFetch_strategy]
  cases memFetch c m f.pc <;> rfl

/-- Of a tick, only the F, D and E latches it leaves may depend on the strategy (R270). -/
theorem tick_strategy (ecall : Bool) (l : MemoryLatch) (s : State) :
    ∃ n, tick ecall l (s.withStrategy bp) = ((tick ecall l s).withStrategy bp).withFront n := by
  refine ⟨(tick ecall l (s.withStrategy bp)).front, ?_⟩
  have charge := fetchCharge_strategy bp s.cfg s.mem s.fl
  have cycles : (tick ecall l (s.withStrategy bp)).cycles = (tick ecall l s).cycles := by
    unfold tick
    exact congrArg (fun n => s.cycles + BitVec.ofNat 64 (_ + n)) charge
  show { tick ecall l (s.withStrategy bp) with cycles := (tick ecall l (s.withStrategy bp)).cycles } = _
  rw [cycles]
  rfl

/-- The outcome `o'` of a run under the strategy `bp` is the outcome `o`, the F, D and E latches apart. -/
def DiffersInFront (bp : BranchPrediction) (o o' : StepOutcome) : Prop :=
  ∀ t, o = .next t → ∃ n, o' = .next ((t.withStrategy bp).withFront n)

theorem cycle_strategy (s : State) : DiffersInFront bp (cycle s) (cycle (s.withStrategy bp)) := by
  intro t h
  unfold cycle at h ⊢
  rw [wStage_strategy]
  cases w : wStage s with
  | holds => rw [w] at h; cases h; exact ⟨s.front, rfl⟩
  | stops e u => rw [w] at h; cases h; exact ⟨u.front, rfl⟩
  | finished u => rw [w] at h; cases h; exact ⟨u.front, rfl⟩
  | goesOn u ecall =>
    rw [w] at h
    dsimp only [WResult.mapState] at h ⊢
    have stage : mStage (u.withStrategy bp).cfg (u.withStrategy bp).mem (u.withStrategy bp).ml = mStage u.cfg u.mem u.ml :=
      mStage_strategy ..
    rw [stage]
    cases access : mStage u.cfg u.mem u.ml with
    | error e => rw [access] at h; cases h; exact ⟨u.front, rfl⟩
    | ok r =>
      rw [access] at h
      cases h
      obtain ⟨n, ticked⟩ := tick_strategy bp ecall r.wn (u.setMem r.mem)
      exact ⟨n, congrArg Host.Outcome.next ticked⟩

theorem engineStep_strategy (s : State) : DiffersInFront bp (engineStep s) (engineStep (s.withStrategy bp)) := by
  unfold engineStep
  rw [State.withStrategy_cfg]
  cases s.cfg.mode with
  | atomic =>
    intro t h
    dsimp only at h ⊢
    rw [atomicStep_strategy, h]
    exact ⟨t.front, rfl⟩
  | pipelined => exact cycle_strategy bp s

/-- Whether a step is performed does not depend on the strategy (40_execution_step.md R102, R103). -/
theorem step_strategy (s : State) : DiffersInFront bp (step s) (step (s.withStrategy bp)) := by
  intro t h
  show ∃ n, (if s.ended || s.hold then _ else if s.atCheckPoint && !s.resuming then _ else _) = _
  unfold step stepOnce at h
  split at h
  next idle =>
    cases h
    exact ⟨s.front, if_pos idle⟩
  next going =>
    split at h
    next paused =>
      cases h
      exact ⟨s.front, (if_neg going).trans (if_pos paused)⟩
    next performed =>
      obtain ⟨u, next, -⟩ := engineStep_answers s
      rw [next] at h
      cases h
      obtain ⟨n, alike⟩ := engineStep_strategy bp s u next
      refine ⟨n, ?_⟩
      rw [if_neg going, if_neg performed, alike]
      rfl

end

/-- Settles O58: states that differ in the strategy and in F, D and E alone (`step_strategy`) show the same. -/
theorem predictorHasNoArchitecturalEffect : Obligations.PredictorHasNoArchitecturalEffect := by
  intro s t u bp h h'
  obtain ⟨n, alike⟩ := step_strategy bp s t h
  cases h'.symm.trans alike
  exact ⟨⟨fun _ => rfl, rfl, rfl, rfl, ⟨rfl, rfl, rfl, rfl, rfl, rfl, rfl⟩⟩, fun _ => ⟨rfl, rfl, rfl⟩⟩

end Sys2Proof.Machine
end
